-- ==== Sys2Proof/Word.lean ====
section
/-! DEFINITION. The word types of CORE (spec 00_scope R11, R12; 40_functions R100): every datapath value is an unsigned 32-bit
word, and a byte is 8 bits. `+` on `Word` is addition modulo 2^32, which is R101; `++` on bit vectors is the spec's
concatenation, the left operand in the more significant position (R11). -/

namespace Sys2Proof

/-- `u32` (R11, R100). -/
abbrev Word := BitVec 32

/-- One message, buffer or digest byte. -/
abbrev Byte := BitVec 8

/-- One 40-bit command word, `cmd_word[39:0]` (30_encoding R70). -/
abbrev CmdWord := BitVec 40

end Sys2Proof
end

