-- ==== Sys2Proof/Syntax.lean ====
section
/-! DEFINITION. The commands of CORE: one constructor for each row of spec/opcode_table.json (30_encoding R71, R75, R76). NOP, INIT
and FINAL have no operand: their NB and DATA fields are ignored (R72, R74). RESERVED has four rows, and its operand is the raw
40-bit word (42_commands R147). -/

namespace Sys2Proof

inductive Instr where
  /-- NOP (42_commands R141). -/
  | nop
  /-- INIT (R142): start a message. -/
  | init
  /-- UPDATE(n, DATA) (R143) with `n = NB + 1` message bytes, the first in `DATA[31:24]` (R72, R74). -/
  | update (nb : BitVec 2) (data : Word)
  /-- FINAL (R145): pad and finish the message. -/
  | final
  /-- RESERVED, the row OP 0x4 to 0x7 with RSV = 0 (R76, R147). -/
  | reservedOpLow (word : CmdWord)
  /-- RESERVED, the row OP 0x8 to 0xF with RSV = 0 (R76, R147). -/
  | reservedOpHigh (word : CmdWord)
  /-- RESERVED, the row RSV[0] = 1 (R76, R147). -/
  | reservedRsvOdd (word : CmdWord)
  /-- RESERVED, the row RSV = 0b10 (R76, R147). -/
  | reservedRsvTwo (word : CmdWord)
deriving DecidableEq, Repr

end Sys2Proof
end

