-- ==== Sys2Proof/WellFormed.lean ====
section
/-! DEFINITION. Which terms of `Instr` are commands of the spec. Every NB and every DATA is legal (30_encoding R72, R77), so the only
check is that the raw word of a RESERVED term lies in the row its constructor names (the match and mask of R76). -/

namespace Sys2Proof

/-- Whether the word `w` lies in the row with this mask and match (R76). -/
def inRow (mask pat w : CmdWord) : Bool := (w &&& mask) == pat

/-- The well-formed commands: a RESERVED term's word is one of its own row of R76. -/
def Instr.wellFormed : Instr → Bool
  | .nop => true
  | .init => true
  | .update _ _ => true
  | .final => true
  | .reservedOpLow w => inRow 0xC300000000#40 0x4000000000#40 w
  | .reservedOpHigh w => inRow 0x8300000000#40 0x8000000000#40 w
  | .reservedRsvOdd w => inRow 0x0100000000#40 0x0100000000#40 w
  | .reservedRsvTwo w => inRow 0x0300000000#40 0x0200000000#40 w

end Sys2Proof
end

