-- ==== Sys2Proof/Decode.lean ====
section
/-! DEFINITION. Decoding and encoding of command words (30_encoding R70 to R79). The decoder is total: every 40-bit word decodes to
exactly one command, and what it decodes to depends on nothing else (R75, R78). A reserved word is no decoding failure: it is
the command RESERVED, which records ERR_OP (R77). -/

namespace Sys2Proof

/-- The OP field, `w[39:36]` (R70). -/
def opField (w : CmdWord) : BitVec 4 := w.extractLsb' 36 4

/-- The NB field, `w[35:34]` (R70). -/
def nbField (w : CmdWord) : BitVec 2 := w.extractLsb' 34 2

/-- The RSV field, `w[33:32]` (R70). -/
def rsvField (w : CmdWord) : BitVec 2 := w.extractLsb' 32 2

/-- The DATA field, `w[31:0]` (R70). -/
def dataField (w : CmdWord) : Word := w.extractLsb' 0 32

/-- `decode` of R75, with RESERVED told apart by the row of R76 that the word lies in. -/
def decode (w : CmdWord) : Instr :=
  if rsvField w ≠ 0b00#2 then
    if rsvField w = 0b10#2 then .reservedRsvTwo w else .reservedRsvOdd w
  else if opField w = 0x0#4 then .nop
  else if opField w = 0x1#4 then .init
  else if opField w = 0x2#4 then .update (nbField w) (dataField w)
  else if opField w = 0x3#4 then .final
  else if opField w < 0x8#4 then .reservedOpLow w
  else .reservedOpHigh w

/-- A command word from its four fields (R70): OP ‖ NB ‖ RSV ‖ DATA. -/
def wordOfFields (op : BitVec 4) (nb rsv : BitVec 2) (data : Word) : CmdWord := op ++ nb ++ rsv ++ data

/-- The word that holds every field of a command as the term has it; fields a command does not have are 0. -/
def Instr.layout : Instr → CmdWord
  | .nop => wordOfFields 0x0#4 0#2 0#2 0#32
  | .init => wordOfFields 0x1#4 0#2 0#2 0#32
  | .update nb data => wordOfFields 0x2#4 nb 0#2 data
  | .final => wordOfFields 0x3#4 0#2 0#2 0#32
  | .reservedOpLow w => w
  | .reservedOpHigh w => w
  | .reservedRsvOdd w => w
  | .reservedRsvTwo w => w

/-- DATA with its don't-care bytes, those past the first `n = NB + 1`, set to 0x00 (R79). -/
def keepBytes (nb : BitVec 2) (data : Word) : Word :=
  data &&& (BitVec.allOnes 32 <<< (24 - 8 * nb.toNat))

/-- The canonical form of a command (R79): the don't-care bytes of UPDATE are 0x00. -/
def Instr.canonical : Instr → Instr
  | .nop => .nop
  | .init => .init
  | .update nb data => .update nb (keepBytes nb data)
  | .final => .final
  | .reservedOpLow w => .reservedOpLow w
  | .reservedOpHigh w => .reservedOpHigh w
  | .reservedRsvOdd w => .reservedRsvOdd w
  | .reservedRsvTwo w => .reservedRsvTwo w

/-- The encoder: it produces the canonical word of a command (R79). -/
def encode (i : Instr) : CmdWord := i.canonical.layout

/-- One row of the mask and match table (R76). -/
structure OpRow where
  mask : CmdWord
  pat : CmdWord
deriving DecidableEq, Repr

/-- The table of R76, in its order: NOP, INIT, UPDATE, FINAL and the four rows of RESERVED. -/
def opRows : Vector OpRow 8 :=
  #v[⟨0xF300000000#40, 0x0000000000#40⟩, ⟨0xF300000000#40, 0x1000000000#40⟩,
    ⟨0xF300000000#40, 0x2000000000#40⟩, ⟨0xF300000000#40, 0x3000000000#40⟩,
    ⟨0xC300000000#40, 0x4000000000#40⟩, ⟨0x8300000000#40, 0x8000000000#40⟩,
    ⟨0x0100000000#40, 0x0100000000#40⟩, ⟨0x0300000000#40, 0x0200000000#40⟩]

/-- The place in `opRows` of the row a command belongs to. -/
def Instr.row : Instr → Fin 8
  | .nop => 0
  | .init => 1
  | .update _ _ => 2
  | .final => 3
  | .reservedOpLow _ => 4
  | .reservedOpHigh _ => 5
  | .reservedRsvOdd _ => 6
  | .reservedRsvTwo _ => 7

/-- Whether a command is RESERVED, in one of its four rows (R75). -/
def Instr.isReserved : Instr → Bool
  | .nop => false
  | .init => false
  | .update _ _ => false
  | .final => false
  | .reservedOpLow _ => true
  | .reservedOpHigh _ => true
  | .reservedRsvOdd _ => true
  | .reservedRsvTwo _ => true

/-- The command that this decoder reads from the word whose low `nbits` bits are those of `w` and whose other bits are 0. A
command is exactly one 40-bit word (R78), so more than 40 bits are no command. -/
def decodeTableWord (nbits w : Nat) : Option Instr :=
  if nbits ≤ 40 then some (decode (BitVec.ofNat 40 (w % 2 ^ nbits))) else none

end Sys2Proof
end

