-- ==== Sys2Proof/Machine/Functions.lean ====
section
/-! DEFINITION. The datapath functions (40_functions R102 to R109, R114, R115): rotations, shifts, the mixing functions, one word
of the schedule recurrence and one round. Addition is `+` on `Word` (R101). -/

namespace Sys2Proof.Machine

/-- `ROTR^n(x)` (R102). -/
def rotr (n : Nat) (x : Word) : Word := (x >>> n) ||| (x <<< (32 - n))

/-- `SHR^n(x)` (R103). -/
def shr (n : Nat) (x : Word) : Word := x >>> n

/-- `Ch(x, y, z)` (R104). -/
def ch (x y z : Word) : Word := (x &&& y) ^^^ (~~~x &&& z)

/-- `Maj(x, y, z)` (R105). -/
def maj (x y z : Word) : Word := (x &&& y) ^^^ (x &&& z) ^^^ (y &&& z)

/-- `Σ0(x)` (R106). -/
def bigSigma0 (x : Word) : Word := rotr 2 x ^^^ rotr 13 x ^^^ rotr 22 x

/-- `Σ1(x)` (R107). -/
def bigSigma1 (x : Word) : Word := rotr 6 x ^^^ rotr 11 x ^^^ rotr 25 x

/-- `σ0(x)` (R108). -/
def smallSigma0 (x : Word) : Word := rotr 7 x ^^^ rotr 18 x ^^^ shr 3 x

/-- `σ1(x)` (R109). -/
def smallSigma1 (x : Word) : Word := rotr 17 x ^^^ rotr 19 x ^^^ shr 10 x

/-- The schedule recurrence (R114): `W_t` from `W_{t-2}`, `W_{t-7}`, `W_{t-15}` and `W_{t-16}`. -/
def expandWord (w2 w7 w15 w16 : Word) : Word := smallSigma1 w2 + w7 + smallSigma0 w15 + w16

/-- `T1 = h + Σ1(e) + Ch(e, f, g) + K[t] + W_t` (R115). -/
def temp1 (v : Vector Word 8) (k w : Word) : Word := v[7] + bigSigma1 v[4] + ch v[4] v[5] v[6] + k + w

/-- `T2 = Σ0(a) + Maj(a, b, c)` (R115). -/
def temp2 (v : Vector Word 8) : Word := bigSigma0 v[0] + maj v[0] v[1] v[2]

/-- One round on the working variables (a..h) with the round constant `k` and the schedule word `w` (R115). -/
def roundStep (k w : Word) (v : Vector Word 8) : Vector Word 8 :=
  #v[temp1 v k w + temp2 v, v[0], v[1], v[2], v[3] + temp1 v k w, v[4], v[5], v[6]]

/-- The fold-back `H'[i] = H[i] + wv[i]` (43_engine R163, 40_functions R116). -/
def foldBack (H v : Vector Word 8) : Vector Word 8 := Vector.ofFn fun i => H[i] + v[i]

end Sys2Proof.Machine
end

