-- ==== Sys2Proof/Machine/Operands.lean ====
section
/-! DEFINITION. Operand forms and the byte/word converter: NB and DATA of UPDATE (30_encoding R72, R74), big-endian words and
bytes (40_functions R110, R111, R113), and the byte map of the block buffer BUF (20_memory R51, R52). -/

namespace Sys2Proof.Machine

/-- `n = NB + 1` (R72). -/
def byteCount (nb : BitVec 2) : Nat := nb.toNat + 1

/-- `be32(b0, b1, b2, b3)` (R110). -/
def be32 (b0 b1 b2 b3 : Byte) : Word := b0 ++ b1 ++ b2 ++ b3

/-- Byte `k` of a word, byte 0 the most significant: `w[31 - 8k : 24 - 8k]` (R74, R111). -/
def byteOfWord (w : Word) (k : Nat) : Byte := w.extractLsb' (24 - 8 * k) 8

/-- `unbe32(w)` (R111). -/
def unbe32 (w : Word) : List Byte := [byteOfWord w 0, byteOfWord w 1, byteOfWord w 2, byteOfWord w 3]

/-- Byte `k` of a 64-bit value, byte 0 the most significant: `v[63 - 8k : 56 - 8k]` (R113, R145). -/
def byteOfDouble (v : BitVec 64) (k : Nat) : Byte := v.extractLsb' (56 - 8 * k) 8

/-- `be64(v)` (R113). -/
def be64 (v : BitVec 64) : List Byte := (List.range 8).map (byteOfDouble v)

/-- `Lbits = mlen ‖ 0b000 = 8 * mlen` (20_memory R57, 40_functions R113). -/
def lengthBits (mlen : BitVec 61) : BitVec 64 := mlen ++ 0#3

/-- The message bytes of an UPDATE in order: byte k of DATA for k = 0 to n - 1 (R74). -/
def dataBytes (nb : BitVec 2) (data : Word) : List Byte := (List.range (byteCount nb)).map (byteOfWord data)

/-- Byte `j` of BUF (R51): `W[j >> 2][31 - 8(j mod 4) : 24 - 8(j mod 4)]`. -/
def bufByte (W : Vector Word 16) (j : Fin 64) : Byte :=
  byteOfWord (W[j.val / 4]'(by have := j.isLt; omega)) (j.val % 4)

/-- The 16 words of a BUF whose bytes are `B`: `W[i] = B[4i] ‖ B[4i+1] ‖ B[4i+2] ‖ B[4i+3]` (R51, R110). -/
def wordsOfBytes (B : Fin 64 → Byte) : Vector Word 16 :=
  Vector.ofFn fun i => be32 (B ⟨4 * i.val, by have := i.isLt; omega⟩) (B ⟨4 * i.val + 1, by have := i.isLt; omega⟩)
    (B ⟨4 * i.val + 2, by have := i.isLt; omega⟩) (B ⟨4 * i.val + 3, by have := i.isLt; omega⟩)

end Sys2Proof.Machine
end

