-- ==== Sys2Proof/Config.lean ====
section
/-! DEFINITION. What the spec fixes for the machine (00_scope R9), what it leaves open to the platform (R10, R61, R211: opaque
constants, no rule depends on them, log 4), and the free draws of the registers before the first reset (70_reset R202: opaque
constants, log 2). -/

namespace Sys2Proof.Config

/-- MAX_MSG_BYTES (R9): the longest message, `2^61 - 1` bytes. -/
abbrev maxMsgBytes : Nat := 2 ^ 61 - 1

/-- BLOCK_BYTES (R9). -/
abbrev blockBytes : Nat := 64

/-- ROUNDS (R9): the rounds of one block. -/
abbrev rounds : Nat := 64

/-- SCHED_WORDS (R9): the schedule words of one block, 16 loaded and 48 derived. -/
abbrev schedWords : Nat := 64

/-- DIGEST_BYTES (R9). -/
abbrev digestBytes : Nat := 32

/-- `NUM_INSTANCES` (R10), OPEN: how many instances of CORE a chip holds. -/
opaque numInstances : Nat

/-- `CORE_BASE` (20_memory R61), OPEN: where a platform's bus wrapper puts CORE. No rule of CORE reads it. -/
opaque coreBase : Nat

/-- `CORE_CLK_HZ` (70_reset R211), OPEN: the clock frequency. No rule of CORE reads it. -/
opaque coreClkHz : Nat

/-- Free draw (R202): the value before the first reset of the word register number `i` (0 to 7: H, 8 to 15: wv, 16 to 31: W). -/
opaque powerUpWord : Nat → Word

/-- Free draws (R202) of `t`, `bcnt`, `mlen` and `first_err` before the first reset. -/
opaque powerUpT : BitVec 7
opaque powerUpBcnt : BitVec 6
opaque powerUpMlen : BitVec 61
opaque powerUpFirstErr : BitVec 2

/-- Free draw (R202) of `phase` before the first reset, as the place of one of the five phases in the table of R27. -/
opaque powerUpPhase : Fin 5

/-- Free draws (R202) of the 1-bit registers before the first reset, in the order of the table of R29
(0 fin, 1 pend2, 2 tail, 3 dvalid, 4 err_op, 5 err_seq, 6 err_len). -/
opaque powerUpFlag : Nat → Bool

end Sys2Proof.Config
end

