-- ==== Sys2Proof/Machine/State.lean ====
section
/-! DEFINITION. The registers of one CORE instance, exactly those of 10_state R29, and the state of a run: the registers, with the port
samples of the coming edges beside them (the input `in` of 43_engine R164; `step` has no argument, log 1). -/

namespace Sys2Proof.Machine

/-- The phase register (R27), a type with exactly the five phases. -/
inductive Phase where
  /-- Code 0: after reset, no message started, `H` not initialised. -/
  | idle
  /-- Code 1: a message is open, UPDATE and FINAL are legal. -/
  | ready
  /-- Code 2: the engine is compressing a block. -/
  | busy
  /-- Code 3: the digest is final. -/
  | done
  /-- Code 4: the message was refused for length overflow, only INIT recovers. -/
  | error
deriving DecidableEq, Repr

/-- What the input ports carry at one rising edge of `clk` (R31). -/
structure PortIn where
  rst : Bool
  cmdValid : Bool
  cmdWord : CmdWord
  doutSel : BitVec 3
deriving DecidableEq, Repr

/-- An edge at which the host offers nothing: no reset, no command (R32, the idle edge of R164). -/
def PortIn.idle : PortIn := { rst := false, cmdValid := false, cmdWord := 0, doutSel := 0 }

/-- An edge at which the host offers the command word `w` (R31). -/
def PortIn.command (w : CmdWord) : PortIn := { rst := false, cmdValid := true, cmdWord := w, doutSel := 0 }

/-- An edge with `rst = 1` (R200). -/
def PortIn.reset : PortIn := { rst := true, cmdValid := false, cmdWord := 0, doutSel := 0 }

/-- The state record of CORE: exactly the fields of R29, under their own names. -/
structure Registers where
  /-- Chaining registers (R20). -/
  H : Vector Word 8
  /-- Working variables a..h in index order (R21). -/
  wv : Vector Word 8
  /-- Block buffer and schedule window (R22), the address space BUF (R50). -/
  W : Vector Word 16
  /-- Round counter (R23). -/
  t : BitVec 7
  /-- Block byte counter (R24). -/
  bcnt : BitVec 6
  /-- Message byte counter (R25). -/
  mlen : BitVec 61
  phase : Phase
  /-- Control flags (R26). -/
  fin : Bool
  pend2 : Bool
  tail : Bool
  dvalid : Bool
  /-- Error registers (R28). -/
  errOp : Bool
  errSeq : Bool
  errLen : Bool
  firstErr : BitVec 2
deriving DecidableEq, Repr

/-- The state of a run: the registers of CORE, and the host's side of the ports, which is no register of CORE. -/
structure State extends Registers where
  /-- The model's own field (log 1): the port samples of the coming edges, the next one first; past its end, idle edges. -/
  inputs : List PortIn
deriving DecidableEq, Repr

/-- Faults. CORE has none: it has no traps, and every error is a refused command recorded in sticky bits, after which the
machine goes on (60_exceptions R180, R188). A closed type with no constructor, raised by nothing (safe). -/
inductive Fault where
deriving DecidableEq, Repr

/-- Refusals. -/
inductive Refusal where
  /-- An instruction that has no meaning yet, by its mnemonic. Raised by no arm of this model (safe). -/
  | notModelled (mnemonic : String)
deriving DecidableEq, Repr

/-- The outcome type of every meaning. -/
abbrev Result := Host.Outcome State Fault Refusal

/-- The reset state (70_reset R200, 10_state R29): every register at the value the spec gives. -/
def Registers.reset : Registers where
  H := Vector.replicate 8 0
  wv := Vector.replicate 8 0
  W := Vector.replicate 16 0
  t := 0
  bcnt := 0
  mlen := 0
  phase := .idle
  fin := false
  pend2 := false
  tail := false
  dvalid := false
  errOp := false
  errSeq := false
  errLen := false
  firstErr := 0

/-- The machine right after reset, with no port sample to come (log 1). -/
def State.reset : State where
  toRegisters := Registers.reset
  inputs := []

/-- The five phases in the order of their codes (R27). -/
def Phase.ofIndex (i : Fin 5) : Phase := #v[Phase.idle, .ready, .busy, .done, .error][i]

/-- The state before the first reset (R202): every register a free draw. -/
def State.powerUp (inputs : List PortIn) : State where
  H := Vector.ofFn fun i => Config.powerUpWord i
  wv := Vector.ofFn fun i => Config.powerUpWord (8 + i)
  W := Vector.ofFn fun i => Config.powerUpWord (16 + i)
  t := Config.powerUpT
  bcnt := Config.powerUpBcnt
  mlen := Config.powerUpMlen
  phase := Phase.ofIndex Config.powerUpPhase
  fin := Config.powerUpFlag 0
  pend2 := Config.powerUpFlag 1
  tail := Config.powerUpFlag 2
  dvalid := Config.powerUpFlag 3
  errOp := Config.powerUpFlag 4
  errSeq := Config.powerUpFlag 5
  errLen := Config.powerUpFlag 6
  firstErr := Config.powerUpFirstErr
  inputs := inputs

end Sys2Proof.Machine
end

