-- ==== Sys2Proof/Machine/Ops.lean ====
section
/-! DEFINITION. The shared operations: recording an error, which is all the exception handling CORE has (60_exceptions R181, R188),
LOAD (43_engine R161), the accesses to BUF (20_memory R52), the padder's block (42_commands R145), reset (70_reset R200), and
the next sample of the input ports. -/

namespace Sys2Proof.Machine

/-- The error causes (60_exceptions R181). -/
inductive ErrCause where
  /-- ERR_OP: a reserved encoding (R182). -/
  | op
  /-- ERR_SEQ: a command illegal in the current phase (R183). -/
  | seq
  /-- ERR_LEN: message length overflow (R184). -/
  | len
deriving DecidableEq, Repr

/-- The cause code (R181, 10_state R28). -/
def ErrCause.code : ErrCause → BitVec 2
  | .op => 1
  | .seq => 2
  | .len => 3

/-- `raise ERR_x` (R181). There is no trap to take and nothing to return from (R188): the flag is set, the first cause is kept,
and ERR_LEN enters ERROR. -/
def raise (c : ErrCause) (s : State) : State :=
  { s with
    errOp := s.errOp || c == .op
    errSeq := s.errSeq || c == .seq
    errLen := s.errLen || c == .len
    firstErr := if s.firstErr = 0 then c.code else s.firstErr
    phase := if c = .len then .error else s.phase }

/-- `LOAD(Hsrc)` (43_engine R161). -/
def load (Hsrc : Vector Word 8) (s : State) : State := { s with wv := Hsrc, t := 0, phase := .busy }

/-- `MemRead(BUF, 4i, 4) = W[i]` (20_memory R52). -/
def memReadBuf (W : Vector Word 16) (i : Fin 16) : Word := W[i]

/-- `MemWrite(BUF, j, n, v)` (20_memory R52): byte k of the n-byte big-endian value `v` goes to byte address `j + k`. -/
def memWriteBuf (W : Vector Word 16) (j n : Nat) (v : BitVec (8 * n)) : Vector Word 16 :=
  wordsOfBytes fun a => if j ≤ a.val ∧ a.val < j + n then v.extractLsb' (8 * (n - 1 - (a.val - j))) 8 else bufByte W a

/-- The word write of UPDATE, `W[bcnt >> 2] <- data` (42_commands R143). -/
def writeBufWord (W : Vector Word 16) (bcnt : BitVec 6) (data : Word) : Vector Word 16 :=
  W.set (bcnt.toNat / 4) data (by have := bcnt.isLt; omega)

/-- Byte `j` of the block that FINAL leaves in BUF, with `k` message bytes in the block and `lbits` the length (42_commands R145). -/
def finalByte (W : Vector Word 16) (k : Nat) (lbits : BitVec 64) (j : Fin 64) : Byte :=
  if j.val < k then bufByte W j
  else if j.val = k then 0x80
  else if 56 ≤ j.val ∧ k ≤ 55 then byteOfDouble lbits (j.val - 56)
  else 0x00

/-- The block that FINAL leaves in BUF (R145). -/
def finalBlock (W : Vector Word 16) (k : Nat) (lbits : BitVec 64) : Vector Word 16 := wordsOfBytes (finalByte W k lbits)

/-- The second padding block (43_engine R163): 14 zero words, then `Lbits[63:32]` and `Lbits[31:0]` (20_memory R57). -/
def lengthBlock (lbits : BitVec 64) : Vector Word 16 :=
  #v[0, 0, 0, 0, 0, 0, 0, 0, 0, 0, 0, 0, 0, 0, lbits.extractLsb' 32 32, lbits.extractLsb' 0 32]

/-- The reset of an edge with `rst = 1` (70_reset R200): every register takes its reset value. The samples of the coming edges are
no register and stay. -/
def hardReset (s : State) : State := { State.reset with inputs := s.inputs }

/-- The next state of a command that is offered in `s` and would leave `s'`: while the phase is BUSY no command is accepted, and it
has no effect (42_commands R140, 10_state R32). -/
def accepted (s s' : State) : Result := if s.phase = .busy then .next s else .next s'

/-- The sample of the input ports at the coming edge; where none is listed the host offers nothing (log 1). -/
def nextInput (s : State) : PortIn := s.inputs.headD PortIn.idle

/-- The state with the sample of the coming edge taken off. -/
def popInput (s : State) : State := { s with inputs := s.inputs.tail }

end Sys2Proof.Machine
end

