-- ==== Sys2Proof/Machine/Commands.lean ====
section
/-! DEFINITION. The meanings of the commands (42_commands R140 to R147), one definition for each constructor of `Instr`, and beside
each the effect it has when it is accepted, with the legality checks of R140 first. -/

namespace Sys2Proof.Machine

/-- INIT (R142). `wv`, `W` and `t` are not written. -/
def initEffect (s : State) : State :=
  { s with
    H := h0rom
    bcnt := 0
    mlen := 0
    fin := false
    pend2 := false
    tail := false
    dvalid := false
    errOp := false
    errSeq := false
    errLen := false
    firstErr := 0
    phase := .ready }

/-- The bytes of an UPDATE that is legal and fits (R143): the word written, the counters, the tail, and LOAD where the word
completes the block. -/
def absorb (nb : BitVec 2) (data : Word) (s : State) : State :=
  let s1 := { s with W := writeBufWord s.W s.bcnt data, mlen := s.mlen + BitVec.ofNat 61 (byteCount nb) }
  if byteCount nb < 4 then { s1 with tail := true, bcnt := s.bcnt + BitVec.ofNat 6 (byteCount nb) }
  else if s.bcnt = 60 then load s.H { s1 with bcnt := 0 }
  else { s1 with bcnt := s.bcnt + 4 }

/-- UPDATE (R143), with the checks of R140 and R184 in the order of 60_exceptions R185. -/
def updateEffect (nb : BitVec 2) (data : Word) (s : State) : State :=
  if s.phase ≠ .ready ∨ s.tail = true then raise .seq s
  else if s.mlen.toNat + byteCount nb > Config.maxMsgBytes then raise .len s
  else absorb nb data s

/-- The padder of a FINAL that is legal (R145). `mlen` and `tail` are not written. -/
def padMessage (s : State) : State :=
  load s.H
    { s with
      W := finalBlock s.W s.bcnt.toNat (lengthBits s.mlen)
      pend2 := decide (56 ≤ s.bcnt.toNat)
      fin := true
      bcnt := 0 }

/-- FINAL (R145), with the check of R140. -/
def finalEffect (s : State) : State := if s.phase ≠ .ready then raise .seq s else padMessage s

/-- NOP (R141): no state changes. -/
def execNop (s : State) : Result := accepted s s

/-- INIT (R142). -/
def execInit (s : State) : Result := accepted s (initEffect s)

/-- UPDATE (R143). -/
def execUpdate (nb : BitVec 2) (data : Word) (s : State) : Result := accepted s (updateEffect nb data s)

/-- FINAL (R145). -/
def execFinal (s : State) : Result := accepted s (finalEffect s)

/-- RESERVED, OP 0x4 to 0x7 (R147). The offending word is not captured (60_exceptions R182). -/
def execReservedOpLow (_word : CmdWord) (s : State) : Result := accepted s (raise .op s)

/-- RESERVED, OP 0x8 to 0xF (R147). -/
def execReservedOpHigh (_word : CmdWord) (s : State) : Result := accepted s (raise .op s)

/-- RESERVED, RSV[0] = 1 (R147): also with the OP of a command, so 0x1100000000 is no INIT. -/
def execReservedRsvOdd (_word : CmdWord) (s : State) : Result := accepted s (raise .op s)

/-- RESERVED, RSV = 0b10 (R147). -/
def execReservedRsvTwo (_word : CmdWord) (s : State) : Result := accepted s (raise .op s)

end Sys2Proof.Machine
end

