-- ==== Sys2Proof/Machine/Dispatch.lean ====
section
/-! DEFINITION. Dispatch of a command to its meaning (42_commands R140), one arm for each constructor of `Instr`. -/

namespace Sys2Proof.Machine

def exec (i : Instr) (s : State) : Host.Outcome State Fault Refusal :=
  match i with
  | .nop => Sys2Proof.Machine.execNop s
  | .init => Sys2Proof.Machine.execInit s
  | .update nb data => Sys2Proof.Machine.execUpdate nb data s
  | .final => Sys2Proof.Machine.execFinal s
  | .reservedOpLow word => Sys2Proof.Machine.execReservedOpLow word s
  | .reservedOpHigh word => Sys2Proof.Machine.execReservedOpHigh word s
  | .reservedRsvOdd word => Sys2Proof.Machine.execReservedRsvOdd word s
  | .reservedRsvTwo word => Sys2Proof.Machine.execReservedRsvTwo word s

end Sys2Proof.Machine
end

