-- ==== Sys2Proof/Machine/Engine.lean ====
section
/-! DEFINITION. The compression engine (43_engine R160 to R163): ROUND, FOLD, and which of the two an edge performs. -/

namespace Sys2Proof.Machine

/-- `W[n mod 16]`. -/
def windowWord (W : Vector Word 16) (n : Nat) : Word := memReadBuf W ⟨n % 16, Nat.mod_lt _ (by decide)⟩

/-- The schedule word `w` of round `t` (R162): the block word while `t < 16`, else the recurrence over the window. -/
def roundWord (W : Vector Word 16) (t : Nat) : Word :=
  if t < 16 then windowWord W t
  else expandWord (windowWord W (t - 2)) (windowWord W (t - 7)) (windowWord W (t - 15)) (windowWord W t)

/-- The window after round `t` (R162): from round 16 on, the new word replaces `W_{t-16}`. -/
def roundWindow (W : Vector Word 16) (t : Nat) : Vector Word 16 :=
  if t < 16 then W else W.set (t % 16) (roundWord W t) (Nat.mod_lt _ (by decide))

/-- ROUND (R162). -/
def roundEdge (s : State) : State :=
  { s with
    W := roundWindow s.W s.t.toNat
    wv := roundStep (krom s.t.toNat) (roundWord s.W s.t.toNat) s.wv
    t := s.t + 1 }

/-- FOLD (R163): fold-back, then the second padding block, or DONE, or READY. -/
def foldEdge (s : State) : State :=
  let s1 := { s with H := foldBack s.H s.wv }
  if s.pend2 then load s1.H { s1 with W := lengthBlock (lengthBits s.mlen), pend2 := false }
  else if s.fin then { s1 with phase := .done, dvalid := true }
  else { s1 with phase := .ready }

/-- The engine's edge (R160, R164): ROUND while `t < 64`, else FOLD. -/
def engineEdge (s : State) : State := if s.t.toNat < 64 then roundEdge s else foldEdge s

end Sys2Proof.Machine
end

