-- ==== Sys2Proof/Machine/NextState.lean ====
section
/-! DEFINITION. The complete next-state function of CORE at one rising edge of `clk` (43_engine R164). -/

namespace Sys2Proof.Machine

/-- `step(s, in)` of R164: reset first, then the engine while BUSY, then a command if one is valid, else nothing changes. -/
def edge (p : PortIn) (s : State) : Result :=
  if p.rst then .next (hardReset s)
  else if s.phase = .busy then .next (engineEdge s)
  else if p.cmdValid then exec (decode p.cmdWord) s
  else .next s

/-- R164's own function on the record of 10_state R29: the registers after an edge with the port sample `p`. -/
def nextRegisters (p : PortIn) (r : Registers) : Registers :=
  match edge p { toRegisters := r, inputs := [] } with
  | .next s => s.toRegisters
  | .fault f => nomatch f
  | .refused _ => r

/-- One edge with the sample of the ports that `inputs` lists for it. -/
def edgeOfInputs (s : State) : Result := edge (nextInput s) (popInput s)

/-- The command word whose low `nbits` bits are those of `w` and whose other bits are 0. -/
def tableWord (nbits w : Nat) : CmdWord := BitVec.ofNat 40 (w % 2 ^ nbits)

/-- `s` with the host offering the command word at the coming edge (10_state R31): CORE fetches nothing (20_memory R65), its next
command is the one on the port. -/
def offerWord (s : State) (nbits w : Nat) : State :=
  { s with inputs := PortIn.command (tableWord nbits w) :: s.inputs }

end Sys2Proof.Machine
end

