-- ==== Sys2Proof/Machine/Step.lean ====
section
/-! DEFINITION. One step of the machine: one rising edge of `clk` (43_engine R164). -/

namespace Sys2Proof.Machine

def step (s : State) : Host.Outcome State Fault Refusal := edgeOfInputs s

def State.withFetchWord (s : State) (nbits w : Nat) : State := offerWord s nbits w

end Sys2Proof.Machine
end

