-- ==== Sys2Proof/Machine/Flags.lean ====
section
/-! DEFINITION. The outputs of CORE (10_state R31 to R34, 43_engine R166, R167, 20_memory R55): functions of the registers, of
`dout_sel` and of `rst`. They change no state (20_memory R60). -/

namespace Sys2Proof.Machine

/-- The code of a phase (R27). -/
def Phase.code : Phase → BitVec 3
  | .idle => 0
  | .ready => 1
  | .busy => 2
  | .done => 3
  | .error => 4

/-- `busy` (R34). -/
def busyOut (s : State) : Bool := s.phase == .busy

/-- `digest_valid` (R34). -/
def digestValidOut (s : State) : Bool := s.dvalid

/-- `cmd_ready` (R32), combinational in `rst`. -/
def cmdReadyOut (rst : Bool) (s : State) : Bool := !rst && s.phase != .busy

/-- `status` (R33), bits 15 to 0 from the left: reserved, FIN, TAIL, FIRST_ERR, ERR_LEN, ERR_SEQ, ERR_OP, DVALID, BUSY, PHASE. -/
def statusOut (s : State) : BitVec 16 :=
  0#4 ++ BitVec.ofBool s.fin ++ BitVec.ofBool s.tail ++ s.firstErr ++ BitVec.ofBool s.errLen ++ BitVec.ofBool s.errSeq ++
    BitVec.ofBool s.errOp ++ BitVec.ofBool s.dvalid ++ BitVec.ofBool (busyOut s) ++ s.phase.code

/-- `dout` (R166): the digest word that `dout_sel` selects, 0 while `dvalid = 0`. -/
def doutOut (sel : BitVec 3) (s : State) : Word :=
  if s.dvalid then s.H[sel.toNat]'(by have := sel.isLt; omega) else 0

/-- `digest` (R167): `H[0] ‖ ... ‖ H[7]`, 0 while `dvalid = 0`. -/
def digestOut (s : State) : BitVec 256 :=
  if s.dvalid then s.H[0] ++ s.H[1] ++ s.H[2] ++ s.H[3] ++ s.H[4] ++ s.H[5] ++ s.H[6] ++ s.H[7] else 0

/-- Byte `i` of the address space DIGEST (20_memory R55): `H[i >> 2][31 - 8(i mod 4) : 24 - 8(i mod 4)]`, 0 while `dvalid = 0`. -/
def digestByte (s : State) (i : Fin 32) : Byte :=
  if s.dvalid then byteOfWord (s.H[i.val / 4]'(by have := i.isLt; omega)) (i.val % 4) else 0

/-- What the output ports carry (R31). -/
structure PortOut where
  cmdReady : Bool
  dout : Word
  digest : BitVec 256
  digestValid : Bool
  busy : Bool
  status : BitVec 16
deriving DecidableEq, Repr

/-- The outputs in a cycle whose registers are those of `s` and whose inputs are `p` (R31). -/
def outputs (p : PortIn) (s : State) : PortOut where
  cmdReady := cmdReadyOut p.rst s
  dout := doutOut p.doutSel s
  digest := digestOut s
  digestValid := digestValidOut s
  busy := busyOut s
  status := statusOut s

end Sys2Proof.Machine
end

