-- ==== Sys2Proof/Machine/Driver.lean ====
section
/-! DEFINITION. How a host presents a message (42_commands R144, 30_encoding R81), and an obedient host on the command port
(60_exceptions R193, 30_encoding R82): it holds each command until CORE accepts it. -/

namespace Sys2Proof.Machine

/-- The UPDATE commands of a message (R144, the expansion of ABSORB in R81): full words, then at most one partial word. -/
def absorbCommands : List Byte → List Instr
  | b0 :: b1 :: b2 :: b3 :: rest => .update 0b11#2 (be32 b0 b1 b2 b3) :: absorbCommands rest
  | [b0, b1, b2] => [.update 0b10#2 (be32 b0 b1 b2 0)]
  | [b0, b1] => [.update 0b01#2 (be32 b0 b1 0 0)]
  | [b0] => [.update 0b00#2 (be32 b0 0 0 0)]
  | [] => []

/-- The commands that hash a message (R144, the expansion of HASH in R81). -/
def hashCommands (m : List Byte) : List Instr := .init :: (absorbCommands m ++ [.final])

/-- What the host does next: let one edge pass, or present a command word and hold it until it is accepted. -/
inductive HostAct where
  | wait
  | offer (word : CmdWord)
deriving DecidableEq, Repr

/-- The host with what it still has to do, and CORE. -/
structure Bench where
  queue : List HostAct
  core : State
deriving DecidableEq, Repr

/-- What the host drives on the input ports at the coming edge. -/
def Bench.port (b : Bench) : PortIn :=
  match b.queue with
  | .offer w :: _ => PortIn.command w
  | .wait :: _ => PortIn.idle
  | [] => PortIn.idle

/-- What the host still has to do after the edge: a command that `cmd_ready` did not take stays (R193). -/
def Bench.rest (b : Bench) : List HostAct :=
  match b.queue with
  | .offer w :: q => if cmdReadyOut false b.core then q else .offer w :: q
  | .wait :: q => q
  | [] => []

/-- One edge of host and CORE together. -/
def Bench.clock (b : Bench) : Host.Outcome Bench Fault Refusal :=
  match edge b.port b.core with
  | .next s => .next { queue := b.rest, core := s }
  | .fault r => .fault r
  | .refused r => .refused r

/-- `n` edges. -/
def Bench.run : Nat → Bench → Host.Outcome Bench Fault Refusal
  | 0, b => .next b
  | n + 1, b =>
    match b.clock with
    | .next b' => Bench.run n b'
    | .fault r => .fault r
    | .refused r => .refused r

/-- The commands other than NOP that the host has to present, in order: waits and NOPs may stand between them (R144, R193). -/
def commandsOf : List HostAct → List Instr
  | [] => []
  | .wait :: q => commandsOf q
  | .offer w :: q => if decode w = .nop then commandsOf q else decode w :: commandsOf q

/-- The commands presented back to back, each by its canonical word (43_engine R168). -/
def backToBack (is : List Instr) : List HostAct := is.map fun i => .offer (encode i)

end Sys2Proof.Machine
end

