-- ==== Sys2Proof/Machine/Assembler.lean ====
section
/-! DEFINITION. The assembler of the textual command form (30_encoding R80, R81). It is no part of the hardware: it gives the words
that a line of text stands for. Text is a list of characters. -/

namespace Sys2Proof.Machine

/-- One line of assembler text (R80, R81), after its spelling is read. -/
inductive AsmLine where
  | blank
  | nop
  | init
  | update (nb : BitVec 2) (data : Word)
  | final
  | word40 (word : CmdWord)
  | absorb (bytes : List Byte)
  | hash (bytes : List Byte)
deriving DecidableEq, Repr

/-- The command words of a line. An UPDATE.n whose don't-care bytes are not 0 is rejected (R80), so that every encoding is canonical. -/
def AsmLine.words : AsmLine → Option (List CmdWord)
  | .blank => some []
  | .nop => some [encode .nop]
  | .init => some [encode .init]
  | .update nb data => if keepBytes nb data = data then some [encode (.update nb data)] else none
  | .final => some [encode .final]
  | .word40 w => some [w]
  | .absorb bytes => some ((absorbCommands bytes).map encode)
  | .hash bytes => some ((hashCommands bytes).map encode)

/-- The command words of a program, none if a line is rejected. -/
def assembleLines : List AsmLine → Option (List CmdWord)
  | [] => some []
  | l :: ls => (l.words).bind fun ws => (assembleLines ls).map fun rest => ws ++ rest

/-- The value of a hex digit. -/
def hexDigit (c : Char) : Option Nat :=
  let n := c.toNat
  if 48 ≤ n ∧ n ≤ 57 then some (n - 48)
  else if 65 ≤ n ∧ n ≤ 70 then some (n - 55)
  else if 97 ≤ n ∧ n ≤ 102 then some (n - 87)
  else none

/-- The value of a run of hex digits, most significant first, after `acc`. -/
def hexValue (acc : Nat) : List Char → Option Nat
  | [] => some acc
  | c :: cs => (hexDigit c).bind fun d => hexValue (16 * acc + d) cs

/-- A literal `0x...` with exactly `digits` hex digits (R80: 8 for DATA, 10 for .word40). -/
def hexLiteral (digits : Nat) : List Char → Option Nat
  | '0' :: 'x' :: cs => if cs.length = digits then hexValue 0 cs else none
  | _ => none

/-- Pairs of hex digits as bytes (R81, the form x"hh..."). -/
def hexBytes : List Char → Option (List Byte)
  | [] => some []
  | c :: d :: cs => (hexValue 0 [c, d]).bind fun v => (hexBytes cs).map fun bs => BitVec.ofNat 8 v :: bs
  | [_] => none

/-- ASCII characters as bytes (R81). -/
def asciiBytes : List Char → Option (List Byte)
  | [] => some []
  | c :: cs => if c.toNat < 128 then (asciiBytes cs).map fun bs => BitVec.ofNat 8 c.toNat :: bs else none

/-- The text before the comment: `;` starts one (R80), outside a quoted string (log 6). -/
def stripComment (quoted : Bool) : List Char → List Char
  | [] => []
  | c :: cs =>
    if c = '"' then c :: stripComment (!quoted) cs
    else if c = ';' ∧ quoted = false then []
    else c :: stripComment quoted cs

/-- Whether a character is a space or a tab. -/
def isGap (c : Char) : Bool := c = ' ' || c = '\t'

/-- The text without leading gaps, and without trailing ones. -/
def trim (cs : List Char) : List Char := ((cs.dropWhile isGap).reverse.dropWhile isGap).reverse

/-- A mnemonic in capitals: mnemonics are case-insensitive (R80). -/
def capitals (cs : List Char) : List Char := cs.map Char.toUpper

/-- A quoted string of R81: `"ascii"` or `x"hex"`. -/
def quotedBytes : List Char → Option (List Byte)
  | 'x' :: '"' :: cs => if cs.getLast? = some '"' then hexBytes cs.dropLast else none
  | '"' :: cs => if cs.getLast? = some '"' ∧ '"' ∉ cs.dropLast then asciiBytes cs.dropLast else none
  | _ => none

/-- An UPDATE line with this NB and the text of its literal. -/
def updateLine (nb : BitVec 2) (arg : List Char) : Option AsmLine :=
  (hexLiteral 8 arg).map fun v => .update nb (BitVec.ofNat 32 v)

/-- The line with this mnemonic, in capitals, and this argument text (R80, R81). UPDATE without a suffix is UPDATE.4. A line
`RESERVED w` is rejected: R80 names it as a way of writing a raw word but lists no such form, only `.word40` (DESIGN CHOICE, log 6). -/
def lineOf (mnemonic arg : List Char) : Option AsmLine :=
  if mnemonic = [] then some .blank
  else if mnemonic = ['N', 'O', 'P'] then (if arg = [] then some .nop else none)
  else if mnemonic = ['I', 'N', 'I', 'T'] then (if arg = [] then some .init else none)
  else if mnemonic = ['F', 'I', 'N', 'A', 'L'] then (if arg = [] then some .final else none)
  else if mnemonic = ['U', 'P', 'D', 'A', 'T', 'E'] then updateLine 0b11#2 arg
  else if mnemonic = ['U', 'P', 'D', 'A', 'T', 'E', '.', '1'] then updateLine 0b00#2 arg
  else if mnemonic = ['U', 'P', 'D', 'A', 'T', 'E', '.', '2'] then updateLine 0b01#2 arg
  else if mnemonic = ['U', 'P', 'D', 'A', 'T', 'E', '.', '3'] then updateLine 0b10#2 arg
  else if mnemonic = ['U', 'P', 'D', 'A', 'T', 'E', '.', '4'] then updateLine 0b11#2 arg
  else if mnemonic = ['.', 'W', 'O', 'R', 'D', '4', '0'] then (hexLiteral 10 arg).map fun v => .word40 (BitVec.ofNat 40 v)
  else if mnemonic = ['A', 'B', 'S', 'O', 'R', 'B'] then (quotedBytes arg).map .absorb
  else if mnemonic = ['H', 'A', 'S', 'H'] then (quotedBytes arg).map .hash
  else none

/-- One line of text: a mnemonic, its argument, a comment (R80). -/
def readLine (text : List Char) : Option AsmLine :=
  let body := trim (stripComment false text)
  let mnemonic := body.takeWhile fun c => !isGap c
  lineOf (capitals mnemonic) (trim (body.drop mnemonic.length))

/-- The command words of a text, given by its lines; none where a line is rejected. -/
def assemble (lines : List (List Char)) : Option (List CmdWord) := (lines.mapM readLine).bind assembleLines

end Sys2Proof.Machine
end

