-- ==== Sys2Proof/Machine/Chip.lean ====
section
/-! DEFINITION. A chip with several instances of CORE (00_scope R10, 20_memory R67, 60_exceptions R192): independent states, each
with its own ports; the read-only ROM is the same constant for all. -/

namespace Sys2Proof.Machine

/-- The instances of a chip. -/
abbrev Chip := List State

/-- A chip after reset: `NUM_INSTANCES` instances (R10). -/
def Chip.reset : Chip := List.replicate Config.numInstances State.reset

/-- One clock edge of a chip: every instance steps by itself (R192). That all instances step at the same edge, on one common clock, is the
model's choice: each has a `clk` port of its own (10_state R31), and the spec does not say how the clocks relate (DESIGN CHOICE, log 9). -/
def Chip.step : Chip → Host.Outcome Chip Fault Refusal
  | [] => .next []
  | s :: rest =>
    match Machine.step s, Chip.step rest with
    | .next s', .next rest' => .next (s' :: rest')
    | .fault r, _ => .fault r
    | .refused r, _ => .refused r
    | .next _, .fault r => .fault r
    | .next _, .refused r => .refused r

end Sys2Proof.Machine
end

