-- ==== Sys2Proof/Machine/Reference.lean ====
section
/-! DEFINITION. The reference functions of 40_functions (R112 to R117): padding, the 64-word schedule, block compression and the
hash of a message. The machine never calls them; the end-to-end laws of 43_engine R168 and R169 are stated with them. -/

namespace Sys2Proof.Machine

/-- `P(L) = (55 - L) mod 64` (R112), with the mathematical remainder. -/
def padZeros (L : Nat) : Nat := ((55 - (L : Int)) % 64).toNat

/-- `pad(m) = m ‖ 0x80 ‖ 0x00^P(L) ‖ be64(8*L)` (R112). -/
def pad (m : List Byte) : List Byte :=
  m ++ [0x80] ++ List.replicate (padZeros m.length) 0x00 ++ be64 (BitVec.ofNat 64 (8 * m.length))

/-- `nblocks(L) = (L + 1 + P(L) + 8) / 64` (R112). -/
def nblocks (L : Nat) : Nat := (L + 1 + padZeros L + 8) / Config.blockBytes

/-- The 16 words of the block whose 64 bytes begin the list `B` (R110). -/
def blockWords (B : List Byte) : Vector Word 16 := wordsOfBytes fun j => B.getD j.val 0

/-- `n` more schedule words at the end of the list `ws` (R114): the next one, W_t with t the length so far, by the recurrence. -/
def extendSchedule : Nat → List Word → List Word
  | 0, ws => ws
  | n + 1, ws =>
    extendSchedule n (ws ++ [expandWord (ws.getD (ws.length - 2) 0) (ws.getD (ws.length - 7) 0)
      (ws.getD (ws.length - 15) 0) (ws.getD (ws.length - 16) 0)])

/-- The 64 schedule words of a block (R114): 16 loaded, 48 derived. -/
def schedule (M : Vector Word 16) : List Word := extendSchedule 48 M.toList

/-- `W_t` of R114. -/
def schedWord (M : Vector Word 16) (t : Nat) : Word := (schedule M).getD t 0

/-- The working variables after the first `n` rounds on the block `M`, from `v` (R115, R116). -/
def roundsOf (M : Vector Word 16) (v : Vector Word 8) : Nat → Vector Word 8
  | 0 => v
  | n + 1 => roundStep (krom n) (schedWord M n) (roundsOf M v n)

/-- `compress(H, B)` (R116), on the words of the block. -/
def compress (H : Vector Word 8) (M : Vector Word 16) : Vector Word 8 := foldBack H (roundsOf M H Config.rounds)

/-- The chaining state after the first `n` blocks of the padded message `B` (R117). -/
def chain (B : List Byte) : Nat → Vector Word 8
  | 0 => h0rom
  | n + 1 => compress (chain B n) (blockWords (B.drop (Config.blockBytes * n)))

/-- The final chaining state of `hash(m)` (R117). -/
def hashWords (m : List Byte) : Vector Word 8 := chain (pad m) (nblocks m.length)

/-- `hash(m)` (R117): the 32 digest bytes. -/
def hashBytes (m : List Byte) : List Byte := (hashWords m).toList.flatMap unbe32

/-- The digest bus that shows the words `H` (43_engine R167). -/
def busOfWords (H : Vector Word 8) : BitVec 256 := H[0] ++ H[1] ++ H[2] ++ H[3] ++ H[4] ++ H[5] ++ H[6] ++ H[7]

end Sys2Proof.Machine
end

