-- ==== Sys2Proof/Machine/Transaction.lean ====
section
/-! DEFINITION. The transaction-level view (43_engine R164, R169): a command, and the engine run until the phase leaves BUSY. -/

namespace Sys2Proof.Machine

/-- At most `n` engine edges, stopping when the phase is no longer BUSY. -/
def engineRun : Nat → State → State
  | 0, s => s
  | n + 1, s => if s.phase = .busy then engineRun n (engineEdge s) else s

/-- The engine edges a FINAL of two padding blocks takes (43_engine R165, 70_reset R212), the most any command takes. -/
def maxEngineEdges : Nat := 130

/-- One transaction (R169): the command, then the engine to completion. -/
def transact (i : Instr) (s : State) : Result :=
  match exec i s with
  | .next s' => .next (engineRun maxEngineEdges s')
  | .fault r => .fault r
  | .refused r => .refused r

end Sys2Proof.Machine
end

