-- ==== Sys2Proof/Safety.lean ====
section
/-! DEFINITION. What the claims speak of: the invariants of every reachable state (10_state R35), the control registers apart from
the datapath (70_reset R213), the primes behind the constants (41_constants_rom R131), and the states that no observation tells apart (70_reset R203). -/

namespace Sys2Proof.Machine

/-- The ten invariants of R35, in its order. -/
structure State.Inv (s : State) : Prop where
  dvalid_iff : s.dvalid = true ↔ s.phase = .done
  fin_phase : s.fin = true → s.phase = .busy ∨ s.phase = .done
  pend2_fin : s.pend2 = true → s.fin = true ∧ s.phase = .busy
  bcnt_mlen : s.fin = false → s.bcnt.toNat = s.mlen.toNat % 64
  bcnt_tail : s.bcnt.toNat % 4 = 0 ∨ s.tail = true
  tail_bcnt : s.tail = true → s.bcnt.toNat % 4 ≠ 0 ∨ s.fin = true
  busy_t : s.phase = .busy → s.t.toNat ≤ 64
  busy_bcnt : s.phase = .busy → s.fin = false → s.bcnt = 0
  error_regs : s.phase = .error → s.errLen = true ∧ s.firstErr ≠ 0 ∧ s.fin = false
  idle_regs : s.phase = .idle →
    s.H = State.reset.H ∧ s.mlen = 0 ∧ s.bcnt = 0 ∧ s.fin = false ∧ s.pend2 = false ∧ s.tail = false ∧ s.dvalid = false

/-- The registers that are not datapath: everything but `H`, `wv` and `W` (R29). -/
structure Control where
  t : BitVec 7
  bcnt : BitVec 6
  mlen : BitVec 61
  phase : Phase
  fin : Bool
  pend2 : Bool
  tail : Bool
  dvalid : Bool
  errOp : Bool
  errSeq : Bool
  errLen : Bool
  firstErr : BitVec 2
deriving DecidableEq, Repr

/-- The control registers of a state. -/
def State.control (s : State) : Control where
  t := s.t
  bcnt := s.bcnt
  mlen := s.mlen
  phase := s.phase
  fin := s.fin
  pend2 := s.pend2
  tail := s.tail
  dvalid := s.dvalid
  errOp := s.errOp
  errSeq := s.errSeq
  errLen := s.errLen
  firstErr := s.firstErr

/-- Two samples of the ports that differ at most in the message bytes: DATA of the command word, and `dout_sel`. -/
def PortIn.SameButData (p q : PortIn) : Prop :=
  p.rst = q.rst ∧ p.cmdValid = q.cmdValid ∧ opField p.cmdWord = opField q.cmdWord ∧ nbField p.cmdWord = nbField q.cmdWord ∧
    rsvField p.cmdWord = rsvField q.cmdWord

/-- The first 64 primes, which define the constants (41_constants_rom R131, R132). -/
def firstPrimes : Vector Nat 64 :=
  #v[2, 3, 5, 7, 11, 13, 17, 19, 23, 29, 31, 37, 41, 43, 47, 53,
    59, 61, 67, 71, 73, 79, 83, 89, 97, 101, 103, 107, 109, 113, 127, 131,
    137, 139, 149, 151, 157, 163, 167, 173, 179, 181, 191, 193, 197, 199, 211, 223,
    227, 229, 233, 239, 241, 251, 257, 263, 269, 271, 277, 281, 283, 293, 307, 311]

/-- Two states that differ at most in what no observation can tell (R203): `wv`, `W` and `t` while the phase is not BUSY, except
the bytes of BUF below `bcnt` while a message is open. -/
structure State.Alike (s s' : State) : Prop where
  H : s.H = s'.H
  bcnt : s.bcnt = s'.bcnt
  mlen : s.mlen = s'.mlen
  phase : s.phase = s'.phase
  fin : s.fin = s'.fin
  pend2 : s.pend2 = s'.pend2
  tail : s.tail = s'.tail
  dvalid : s.dvalid = s'.dvalid
  errOp : s.errOp = s'.errOp
  errSeq : s.errSeq = s'.errSeq
  errLen : s.errLen = s'.errLen
  firstErr : s.firstErr = s'.firstErr
  inputs : s.inputs = s'.inputs
  engine : s.phase = .busy → s.wv = s'.wv ∧ s.W = s'.W ∧ s.t = s'.t
  buffer : s.phase = .ready → ∀ j : Fin 64, j.val < s.bcnt.toNat → bufByte s.W j = bufByte s'.W j

end Sys2Proof.Machine
end

