-- ==== Sys2Proof/Certificates/Slice0/Obligations.lean ====
section
/-! DEFINITION. The statements about CORE, for the provers. Each docstring names the rule of spec/ it formalises. -/

open Sys2Proof Sys2Proof.Machine

/-! ## Encoding -/

/-- Words of the decode table of 95_test_vectors section 6, one for each row of 30_encoding R76. -/
def Obligations.SpecWordsDecode : Prop :=
  decode 0x0CFFFFFFFF#40 = .nop ∧ decode 0x1000000000#40 = .init ∧
  decode 0x28616263FF#40 = .update 0b10#2 0x616263FF#32 ∧ decode 0x3012345678#40 = .final ∧
  decode 0x4000000000#40 = .reservedOpLow 0x4000000000#40 ∧ decode 0xF000000000#40 = .reservedOpHigh 0xF000000000#40 ∧
  decode 0x1123456789#40 = .reservedRsvOdd 0x1123456789#40 ∧ decode 0x2200000000#40 = .reservedRsvTwo 0x2200000000#40

/-- 30_encoding R75: the decoder, case by case over the fields of any word. -/
def Obligations.DecoderReadsTheFields : Prop :=
  ∀ w : CmdWord,
    (rsvField w ≠ 0 → (decode w).isReserved = true) ∧
    (rsvField w = 0 →
      (opField w = 0x0#4 → decode w = .nop) ∧
      (opField w = 0x1#4 → decode w = .init) ∧
      (opField w = 0x2#4 → decode w = .update (nbField w) (dataField w) ∧ byteCount (nbField w) = (nbField w).toNat + 1) ∧
      (opField w = 0x3#4 → decode w = .final) ∧
      (4 ≤ (opField w).toNat → (decode w).isReserved = true))

/-- 30_encoding R76: the rows of the table do not overlap and cover every word, and the decoder gives a word the command of its row. -/
def Obligations.EachWordMatchesExactlyItsRow : Prop :=
  ∀ (w : CmdWord) (r : Fin 8), inRow opRows[r].mask opRows[r].pat w = true ↔ (decode w).row = r

/-- Decode and encode agree: the laid-out word of every well-formed command decodes to it, with every operand at every value, and the
canonical word decodes to its canonical form (30_encoding R75, R79). -/
def Obligations.DecodeEncodeRoundTrip : Prop :=
  ∀ i : Instr, i.wellFormed = true →
    decode i.layout = i ∧ decode (encode i) = i.canonical ∧ i.canonical.wellFormed = true

/-- 30_encoding R79: the encoder sets every don't-care field to 0 and keeps the others, and the decoder accepts every form. -/
def Obligations.EncoderEmitsCanonicalWords : Prop :=
  (∀ i : Instr, i = .nop ∨ i = .init ∨ i = .final → nbField (encode i) = 0 ∧ dataField (encode i) = 0 ∧ rsvField (encode i) = 0) ∧
  (∀ (nb : BitVec 2) (data : Word), nbField (encode (.update nb data)) = nb ∧ rsvField (encode (.update nb data)) = 0 ∧
    ∀ k < 4, byteOfWord (dataField (encode (.update nb data))) k = if k < byteCount nb then byteOfWord data k else 0) ∧
  (∀ w : CmdWord, (decode w).wellFormed = true ∧ decode (encode (decode w)) = (decode w).canonical)

/-! ## Commands -/

/-- 42_commands R147: in every phase that accepts commands, a word with OP 0x4 to 0xF or RSV not 0 records ERR_OP and nothing else;
0x1100000000 is no INIT; the example of the rule. -/
def Obligations.ReservedWordsRecordErrOp : Prop :=
  (∀ (w : CmdWord) (s : State), s.phase ≠ .busy → 4 ≤ (opField w).toNat ∨ rsvField w ≠ 0 →
    exec (decode w) s = .next { s with errOp := true, firstErr := if s.firstErr = 0 then 1 else s.firstErr }) ∧
  (decode 0x1100000000#40 ≠ .init) ∧
  (∃ t, exec (decode 0x4000000000#40) State.reset = .next t ∧ statusOut t = 0x0120#16)

/-- Each of the four RESERVED rows completes with the effect of 42_commands R147. -/
def Obligations.ReservedRowsComplete : Prop :=
  ∀ (w : CmdWord) (s : State), s.phase ≠ .busy →
    exec (.reservedOpLow w) s = .next { s with errOp := true, firstErr := if s.firstErr = 0 then 1 else s.firstErr } ∧
    exec (.reservedOpHigh w) s = .next { s with errOp := true, firstErr := if s.firstErr = 0 then 1 else s.firstErr } ∧
    exec (.reservedRsvOdd w) s = .next { s with errOp := true, firstErr := if s.firstErr = 0 then 1 else s.firstErr } ∧
    exec (.reservedRsvTwo w) s = .next { s with errOp := true, firstErr := if s.firstErr = 0 then 1 else s.firstErr }

/-- 42_commands R141: NOP, with any NB and DATA, changes nothing in any phase. -/
def Obligations.NopChangesNothing : Prop :=
  (∀ s : State, exec .nop s = .next s) ∧
  (∀ (nb : BitVec 2) (data : Word), decode (wordOfFields 0x0#4 nb 0 data) = .nop) ∧ encode .nop = 0x0000000000#40

/-- 42_commands R142: INIT in every phase that accepts commands; `wv`, `W` and `t` are not written. -/
def Obligations.InitStartsAMessage : Prop :=
  (∀ s : State, s.phase ≠ .busy →
    ∃ t, exec .init s = .next t ∧ statusOut t = 0x0001#16 ∧
      t = { s with
            H := h0rom, bcnt := 0, mlen := 0, fin := false, pend2 := false, tail := false, dvalid := false,
            errOp := false, errSeq := false, errLen := false, firstErr := 0, phase := .ready }) ∧
  (∀ (nb : BitVec 2) (data : Word), decode (wordOfFields 0x1#4 nb 0 data) = .init) ∧ encode .init = 0x1000000000#40

/-- While BUSY no command is accepted, so whatever is offered has no effect, and the engine's edge is the same as with nothing offered
(42_commands R140, its last paragraph). The first clause, that a meaning called in a BUSY state answers that state unchanged, is
the model's choice (DEDUCED, log 8): no edge of CORE calls one there. -/
def Obligations.NoCommandWhileBusy : Prop :=
  ∀ s : State, s.phase = .busy →
    (∀ i : Instr, exec i s = .next s) ∧
    (∀ p : PortIn, p.rst = false → cmdReadyOut p.rst s = false ∧ edge p s = edge PortIn.idle s)

/-- The effect of a legal UPDATE that fits (42_commands R143): a partial word, a word that completes the block, any other full word.
The message counter counts exactly. -/
def Obligations.UpdateAbsorbsBytes : Prop :=
  ∀ (nb : BitVec 2) (data : Word) (s : State), s.phase = .ready → s.tail = false →
    s.mlen.toNat + byteCount nb ≤ 2 ^ 61 - 1 →
    ∃ t, exec (.update nb data) s = .next t ∧
      (∀ (i : Nat) (hi : i < 16), t.W[i] = if i = s.bcnt.toNat / 4 then data else s.W[i]) ∧
      t.mlen.toNat = s.mlen.toNat + byteCount nb ∧
      (byteCount nb < 4 →
        t = { s with W := t.W, mlen := t.mlen, tail := true, bcnt := s.bcnt + BitVec.ofNat 6 (byteCount nb) }) ∧
      (byteCount nb = 4 → s.bcnt = 60 →
        t = { s with W := t.W, mlen := t.mlen, bcnt := 0, wv := s.H, t := 0, phase := .busy }) ∧
      (byteCount nb = 4 → s.bcnt ≠ 60 → t = { s with W := t.W, mlen := t.mlen, bcnt := s.bcnt + 4 })

/-- 60_exceptions R183: UPDATE in IDLE, DONE, ERROR or after the tail, and FINAL in IDLE, DONE or ERROR, record ERR_SEQ and
nothing else. -/
def Obligations.IllegalCommandsRecordErrSeq : Prop :=
  (∀ (nb : BitVec 2) (data : Word) (s : State),
    s.phase = .idle ∨ s.phase = .done ∨ s.phase = .error ∨ (s.phase = .ready ∧ s.tail = true) →
    exec (.update nb data) s = .next { s with errSeq := true, firstErr := if s.firstErr = 0 then 2 else s.firstErr }) ∧
  (∀ s : State, s.phase = .idle ∨ s.phase = .done ∨ s.phase = .error →
    exec .final s = .next { s with errSeq := true, firstErr := if s.firstErr = 0 then 2 else s.firstErr })

/-- 60_exceptions R184: an UPDATE that would pass `2^61 - 1` bytes records ERR_LEN, enters ERROR and writes nothing else; in ERROR
UPDATE and FINAL raise ERR_SEQ; a message of exactly `2^61 - 1` bytes is legal, and its length field is 0xFFFFFFFFFFFFFFF8. -/
def Obligations.LengthOverflowEntersError : Prop :=
  (∀ (nb : BitVec 2) (data : Word) (s : State), s.phase = .ready → s.tail = false →
    s.mlen.toNat + byteCount nb > 2 ^ 61 - 1 →
    exec (.update nb data) s =
      .next { s with errLen := true, firstErr := if s.firstErr = 0 then 3 else s.firstErr, phase := .error }) ∧
  (∀ (nb : BitVec 2) (data : Word) (s : State), s.phase = .error →
    exec (.update nb data) s = .next (raise .seq s) ∧ exec .final s = .next (raise .seq s)) ∧
  (∀ (nb : BitVec 2) (data : Word) (s : State), s.phase = .ready → s.tail = false →
    s.mlen.toNat + byteCount nb = 2 ^ 61 - 1 →
    ∃ t, exec (.update nb data) s = .next t ∧ t.errLen = s.errLen ∧ lengthBits t.mlen = 0xFFFFFFFFFFFFFFF8#64)

/-- The bytes UPDATE stores (20_memory R51, R52, R56): the four bytes of the word address `4 * (bcnt >> 2)` take the bytes of DATA, and
every other byte of BUF keeps its value; the write is `MemWrite(BUF, 4 * (bcnt >> 2), 4, DATA)`. A refused UPDATE stores nothing. -/
def Obligations.UpdateStoresFourBytes : Prop :=
  ∀ (nb : BitVec 2) (data : Word) (s : State), s.phase ≠ .busy →
    ∃ t, exec (.update nb data) s = .next t ∧
      (s.phase = .ready → s.tail = false → s.mlen.toNat + byteCount nb ≤ 2 ^ 61 - 1 →
        t.W = memWriteBuf s.W (4 * (s.bcnt.toNat / 4)) 4 data ∧
        ∀ j : Fin 64, bufByte t.W j =
          if 4 * (s.bcnt.toNat / 4) ≤ j.val ∧ j.val < 4 * (s.bcnt.toNat / 4) + 4 then byteOfWord data (j.val % 4)
          else bufByte s.W j) ∧
      (¬(s.phase = .ready ∧ s.tail = false ∧ s.mlen.toNat + byteCount nb ≤ 2 ^ 61 - 1) →
        ∀ j : Fin 64, bufByte t.W j = bufByte s.W j)

/-- The effect of a legal FINAL (42_commands R145), byte by byte of the buffer. -/
def Obligations.FinalPadsTheBlock : Prop :=
  ∀ s : State, s.phase = .ready →
    ∃ t, exec .final s = .next t ∧
      (∀ j : Fin 64, bufByte t.W j =
        if j.val < s.bcnt.toNat then bufByte s.W j
        else if j.val = s.bcnt.toNat then 0x80
        else if 56 ≤ j.val ∧ s.bcnt.toNat ≤ 55 then (s.mlen ++ 0#3 : BitVec 64).extractLsb' (56 - 8 * (j.val - 56)) 8
        else 0x00) ∧
      t = { s with
            W := t.W, pend2 := decide (56 ≤ s.bcnt.toNat), fin := true, bcnt := 0,
            wv := s.H, t := 0, phase := .busy }

/-- The blocks FINAL and FOLD write are the last one or two blocks of `pad(m)` (42_commands R145, 40_functions R112), when the buffer
holds the message bytes of the last block. -/
def Obligations.FinalBlocksArePadding : Prop :=
  ∀ (m : List Byte) (W : Vector Word 16), m.length ≤ 2 ^ 61 - 1 →
    (∀ j : Fin 64, j.val < m.length % 64 → bufByte W j = m.getD (64 * (m.length / 64) + j.val) 0) →
    (∀ j : Fin 64, bufByte (finalBlock W (m.length % 64) (lengthBits (BitVec.ofNat 61 m.length))) j =
      (pad m).getD (64 * (m.length / 64) + j.val) 0) ∧
    (56 ≤ m.length % 64 → ∀ j : Fin 64, bufByte (lengthBlock (lengthBits (BitVec.ofNat 61 m.length))) j =
      (pad m).getD (64 * (m.length / 64) + 64 + j.val) 0) ∧
    nblocks m.length = m.length / 64 + if 56 ≤ m.length % 64 then 2 else 1

/-- 40_functions R112: the size of the padded message, the two cases of P, and the corner cases of the rule. -/
def Obligations.PaddedMessageIsWholeBlocks : Prop :=
  (∀ m : List Byte, m.length ≤ 2 ^ 61 - 1 →
    pad m = m ++ [0x80] ++ List.replicate (padZeros m.length) 0x00 ++ be64 (BitVec.ofNat 64 (8 * m.length)) ∧
    (pad m).length = 64 * nblocks m.length) ∧
  (∀ L : Nat, (padZeros L : Int) = (55 - (L : Int)) % 64 ∧ nblocks L = (L + 8) / 64 + 1 ∧ 9 ≤ padZeros L + 9 ∧
    padZeros L + 9 ≤ 72 ∧
    padZeros L = if (L + 1) % 64 > 56 then 120 - (L + 1) % 64 else 56 - (L + 1) % 64) ∧
  [0, 55, 56, 63, 64, 65, 119, 120].map (fun L => (padZeros L, nblocks L)) =
    [(55, 1), (0, 1), (63, 2), (56, 2), (55, 2), (54, 2), (0, 2), (63, 3)]

/-! ## Errors -/

/-- 60_exceptions R181: what recording an error does, for each cause. -/
def Obligations.RaiseRecordsTheCause : Prop :=
  ∀ s : State,
    raise .op s = { s with errOp := true, firstErr := if s.firstErr = 0 then 1 else s.firstErr } ∧
    raise .seq s = { s with errSeq := true, firstErr := if s.firstErr = 0 then 2 else s.firstErr } ∧
    raise .len s = { s with errLen := true, firstErr := if s.firstErr = 0 then 3 else s.firstErr, phase := .error }

/-- 60_exceptions R185: one error at most, checked in the order ERR_OP, ERR_SEQ, ERR_LEN; the engine raises none, and reset
overrides everything. -/
def Obligations.ErrorsAreCheckedInOrder : Prop :=
  (∀ (w : CmdWord) (s : State), s.phase ≠ .busy →
    let illegal := (∃ nb data, decode w = .update nb data ∧ (s.phase ≠ .ready ∨ s.tail = true)) ∨
      (decode w = .final ∧ s.phase ≠ .ready)
    let tooLong := ∃ nb data, decode w = .update nb data ∧ s.mlen.toNat + byteCount nb > 2 ^ 61 - 1
    ((decode w).isReserved = true → exec (decode w) s = .next (raise .op s)) ∧
    ((decode w).isReserved = false → illegal → exec (decode w) s = .next (raise .seq s)) ∧
    ((decode w).isReserved = false → ¬illegal → tooLong → exec (decode w) s = .next (raise .len s)) ∧
    ((decode w).isReserved = false → ¬illegal → ¬tooLong → decode w ≠ .init →
      ∃ t, exec (decode w) s = .next t ∧ t.errOp = s.errOp ∧ t.errSeq = s.errSeq ∧ t.errLen = s.errLen ∧
        t.firstErr = s.firstErr)) ∧
  (∀ s : State, s.phase = .busy → (engineEdge s).errOp = s.errOp ∧ (engineEdge s).errSeq = s.errSeq ∧
    (engineEdge s).errLen = s.errLen ∧ (engineEdge s).firstErr = s.firstErr) ∧
  (∀ (p : PortIn) (s : State), p.rst = true → edge p s = .next { State.reset with inputs := s.inputs })

/-- 60_exceptions R186: unless an INIT is accepted or `rst` is 1, a step keeps every error flag and the first cause. -/
def Obligations.ErrorsAreSticky : Prop :=
  ∀ s t : State, step s = .next t → (nextInput s).rst = false →
    ¬(s.phase ≠ .busy ∧ (nextInput s).cmdValid = true ∧ decode (nextInput s).cmdWord = .init) →
    (s.errOp = true → t.errOp = true) ∧ (s.errSeq = true → t.errSeq = true) ∧ (s.errLen = true → t.errLen = true) ∧
    (s.firstErr ≠ 0 → t.firstErr = s.firstErr)

/-! ## The engine -/

/-- 43_engine R160: while BUSY an edge without reset is the engine's, whatever command is offered: ROUND below 64, FOLD at 64. That a
step takes the sample of its edge off `inputs` is the model's choice (log 1). -/
def Obligations.BusyEdgeIsTheEngines : Prop :=
  ∀ s : State, s.phase = .busy → (nextInput s).rst = false →
    step s = .next (engineEdge (popInput s)) ∧
    (s.t.toNat < 64 → engineEdge s = roundEdge s) ∧ (s.t.toNat = 64 → engineEdge s = foldEdge s)

/-- The effect of ROUND (43_engine R162): the schedule word, the two temporaries, the new working variables, the window. That a
step takes the sample of its edge off `inputs` is the model's choice (log 1). -/
def Obligations.RoundEdgeResult : Prop :=
  ∀ s : State, s.phase = .busy → s.t.toNat < 64 → (nextInput s).rst = false →
    let t := s.t.toNat
    let w : Word := if t < 16 then windowWord s.W t
      else smallSigma1 (windowWord s.W (t - 2)) + windowWord s.W (t - 7) + smallSigma0 (windowWord s.W (t - 15)) +
        windowWord s.W t
    let t1 := s.wv[7] + bigSigma1 s.wv[4] + ch s.wv[4] s.wv[5] s.wv[6] + krom t + w
    let t2 := bigSigma0 s.wv[0] + maj s.wv[0] s.wv[1] s.wv[2]
    ∃ u, step s = .next u ∧
      (∀ (i : Nat) (hi : i < 16), u.W[i] = if 16 ≤ t ∧ i = t % 16 then w else s.W[i]) ∧
      u.t.toNat = t + 1 ∧
      u = { s with
            W := u.W, t := u.t, inputs := s.inputs.tail,
            wv := #v[t1 + t2, s.wv[0], s.wv[1], s.wv[2], s.wv[3] + t1, s.wv[4], s.wv[5], s.wv[6]] }

/-- The effect of FOLD (43_engine R163): fold-back, then the second padding block, DONE, or READY. That a step takes the
sample of its edge off `inputs` is the model's choice (log 1). -/
def Obligations.FoldEdgeResult : Prop :=
  ∀ s : State, s.phase = .busy → s.t.toNat = 64 → (nextInput s).rst = false →
    ∃ u, step s = .next u ∧ (∀ (i : Nat) (hi : i < 8), u.H[i] = s.H[i] + s.wv[i]) ∧
      (s.pend2 = true →
        (∀ (i : Nat) (hi : i < 14), u.W[i] = 0) ∧
        u.W[14] = (s.mlen ++ 0#3 : BitVec 64).extractLsb' 32 32 ∧ u.W[15] = (s.mlen ++ 0#3 : BitVec 64).extractLsb' 0 32 ∧
        u = { s with H := u.H, W := u.W, pend2 := false, wv := u.H, t := 0, phase := .busy, inputs := s.inputs.tail }) ∧
      (s.pend2 = false → s.fin = true →
        u = { s with H := u.H, phase := .done, dvalid := true, inputs := s.inputs.tail }) ∧
      (s.pend2 = false → s.fin = false → u = { s with H := u.H, phase := .ready, inputs := s.inputs.tail })

/-- The window invariant of 43_engine R162: after `n` rounds from `t = 0`, the window holds the last 16 schedule words of the block,
the words not yet used are the block's, and the working variables are those of the reference rounds. -/
def Obligations.WindowHoldsTheSchedule : Prop :=
  ∀ (s : State) (n : Nat), s.phase = .busy → s.t = 0 → n ≤ 64 →
    let u := engineRun n s
    u.t.toNat = n ∧ u.wv = roundsOf s.W s.wv n ∧
    (∀ j, j < n → n ≤ j + 16 → windowWord u.W j = schedWord s.W j) ∧
    (∀ j, j < 16 → n ≤ j → windowWord u.W j = windowWord s.W j) ∧
    u = { s with t := u.t, wv := u.wv, W := u.W }

/-- 40_functions R114: the 64 schedule words of a block, the all-zero block, and the example of the rule. -/
def Obligations.ScheduleSatisfiesTheRecurrence : Prop :=
  (∀ (M : Vector Word 16) (t : Nat) (ht : t < 16), schedWord M t = M[t]) ∧
  (∀ (M : Vector Word 16) (t : Nat), 16 ≤ t → t < 64 →
    schedWord M t = smallSigma1 (schedWord M (t - 2)) + schedWord M (t - 7) + smallSigma0 (schedWord M (t - 15)) +
      schedWord M (t - 16)) ∧
  (∀ t < 64, schedWord (Vector.replicate 16 0) t = 0) ∧
  (∀ abc : Vector Word 16, abc = ((Vector.replicate 16 0).set 0 0x61626380).set 15 0x00000018 →
    schedWord abc 16 = 0x61626380 ∧ schedWord abc 17 = 0x000F0000)

/-- One block in the engine (43_engine R165, R169): 65 edges, BUSY until the last, and the chaining state becomes
`compress(H, B)` of 40_functions R116. -/
def Obligations.EngineCompressesOneBlock : Prop :=
  ∀ s : State, s.phase = .busy → s.t = 0 → s.wv = s.H →
    (∀ n < 65, (engineRun n s).phase = .busy ∧ (engineRun n s).H = s.H ∧ (engineRun n s).mlen = s.mlen) ∧
    (engineRun 65 s).H = compress s.H s.W ∧
    (engineRun 65 s).phase = (if s.pend2 then Phase.busy else if s.fin then Phase.done else Phase.ready)

/-- 43_engine R169: an UPDATE.4 that completes a block, or a FINAL, with the engine run to completion. -/
def Obligations.TransactionsCompress : Prop :=
  (∀ (s : State) (data : Word), s.Inv → s.phase = .ready → s.tail = false → s.bcnt = 60 →
    s.mlen.toNat + 4 ≤ 2 ^ 61 - 1 →
    ∃ u, transact (.update 0b11#2 data) s = .next u ∧ u.H = compress s.H (s.W.set 15 data) ∧ u.phase = .ready ∧
      u.bcnt = 0 ∧ u.mlen.toNat = s.mlen.toNat + 4 ∧ u.dvalid = false ∧ u.tail = false) ∧
  (∀ s : State, s.Inv → s.phase = .ready →
    ∃ u, transact .final s = .next u ∧ u.phase = .done ∧ u.dvalid = true ∧ u.mlen = s.mlen ∧ u.tail = s.tail ∧
      u.H = (let h := compress s.H (finalBlock s.W s.bcnt.toNat (lengthBits s.mlen))
        if s.bcnt.toNat ≤ 55 then h else compress h (lengthBlock (lengthBits s.mlen))) ∧
      ∃ v, exec .final s = .next v ∧
        ∀ n, n < (if s.bcnt.toNat ≤ 55 then 65 else 130) → (engineRun n v).phase = .busy ∧ (engineRun n v).dvalid = false)

/-- 43_engine R164: the transaction-level view agrees with the machine edge for edge: with no input, `n` steps of a BUSY machine are
`n` engine edges, and stop changing anything when the phase leaves BUSY. That an empty list of samples stands for idle edges for ever
is the model's choice (log 1). -/
def Obligations.StepsRunTheEngine : Prop :=
  ∀ (n : Nat) (s : State), s.inputs = [] → Host.Core.run Sys2Proof.core n s = .next (engineRun n s)

/-! ## Whole messages -/

/-- 43_engine R168, the correctness law: from any state that is not BUSY, a host that presents the commands of a message in order,
holding each until it is accepted, with any waits and NOPs between them and any don't-care bits, ends with the digest of the message. -/
def Obligations.MessageDigestIsTheHash : Prop :=
  ∀ (m : List Byte) (s : State) (q : List HostAct), m.length ≤ 2 ^ 61 - 1 → s.phase ≠ .busy →
    (commandsOf q).map Instr.canonical = hashCommands m →
    ∃ n u, Bench.run n { queue := q, core := s } = .next { queue := [], core := u } ∧
      u.phase = .done ∧ u.dvalid = true ∧ u.errOp = false ∧ u.errSeq = false ∧ u.errLen = false ∧ u.firstErr = 0 ∧
      digestOut u = busOfWords (hashWords m) ∧ ∀ i : Fin 32, digestByte u i = (hashBytes m).getD i.val 0

/-- 43_engine R168, the count: presented back to back, the message takes `2 + ceil(L/4) + 65 * nblocks(L)` edges, and no digest is
valid at an earlier edge. -/
def Obligations.BackToBackEdgeCount : Prop :=
  (∀ (m : List Byte) (s : State), m.length ≤ 2 ^ 61 - 1 → s.phase ≠ .busy →
    let b : Bench := { queue := backToBack (hashCommands m), core := s }
    (∃ u, Bench.run (2 + (m.length + 3) / 4 + 65 * nblocks m.length) b = .next { queue := [], core := u } ∧
      u.phase = .done ∧ u.dvalid = true ∧ digestOut u = busOfWords (hashWords m)) ∧
    ∀ n, 1 ≤ n → n < 2 + (m.length + 3) / 4 + 65 * nblocks m.length →
      ∃ c, Bench.run n b = .next c ∧ c.core.dvalid = false ∧ c.core.phase ≠ .done) ∧
  2 + (0 + 3) / 4 + 65 * nblocks 0 = 67 ∧ 2 + (3 + 3) / 4 + 65 * nblocks 3 = 68

/-- 42_commands R144: the UPDATE commands of a message carry its bytes in order, all but the last a full word, `ceil(L/4)` in all; the
example of 30_encoding R81. -/
def Obligations.HashCommandsCarryTheMessage : Prop :=
  (∀ m : List Byte,
    (absorbCommands m).flatMap (fun i => match i with | .update nb data => dataBytes nb data | _ => []) = m ∧
    (absorbCommands m).length = (m.length + 3) / 4 ∧
    (∀ i ∈ (absorbCommands m).dropLast, ∃ data, i = .update 0b11#2 data) ∧
    (∀ i ∈ absorbCommands m, ∃ nb data, i = .update nb data ∧ i.canonical = i)) ∧
  (hashCommands [0x61, 0x62, 0x63]).map encode = [0x1000000000#40, 0x2861626300#40, 0x3000000000#40]

/-- The assembler emits only canonical words (30_encoding R79, R80), but for the raw words of `.word40`, and rejects an UPDATE.n with
don't-care bytes that are not 0. -/
def Obligations.AssemblerIsCanonical : Prop :=
  (∀ (l : AsmLine) (ws : List CmdWord), l.words = some ws → (∀ w, l ≠ .word40 w) → ∀ w ∈ ws, encode (decode w) = w) ∧
  (∀ (nb : BitVec 2) (data : Word), (AsmLine.update nb data).words = none ↔
    ∃ k, byteCount nb ≤ k ∧ k < 4 ∧ byteOfWord data k ≠ 0)

/-! ## Outputs -/

/-- 43_engine R167 with 20_memory R55: the digest bus and the bytes of DIGEST. -/
def Obligations.DigestBusShowsTheChainingWords : Prop :=
  ∀ s : State,
    (s.dvalid = true → ∀ i : Fin 8, (digestOut s).extractLsb' (224 - 32 * i.val) 32 = s.H[i]) ∧
    (s.dvalid = false → digestOut s = 0) ∧
    (∀ i : Fin 32, digestByte s i = (digestOut s).extractLsb' (248 - 8 * i.val) 8)

/-- 43_engine R166: `dout` selects a digest word, in the same cycle, and agrees with the bus; it is 0 while `dvalid = 0`. -/
def Obligations.MuxSelectsADigestWord : Prop :=
  ∀ (s : State) (sel : BitVec 3),
    doutOut sel s = (digestOut s).extractLsb' (224 - 32 * sel.toNat) 32 ∧
    (s.dvalid = false → doutOut sel s = 0) ∧
    (∀ p : PortIn, p.doutSel = sel → (outputs p s).dout = doutOut sel s)

/-- No digest is visible outside DONE (70_reset R206, 43_engine R166), in every state that meets the invariant. -/
def Obligations.NoDigestOutsideDone : Prop :=
  ∀ s : State, s.Inv → s.phase ≠ .done → digestValidOut s = false ∧ digestOut s = 0 ∧ ∀ sel, doutOut sel s = 0

/-- In DONE the digest stays until the next INIT or reset (43_engine R166). -/
def Obligations.DigestStaysInDone : Prop :=
  ∀ s t : State, s.phase = .done → step s = .next t → (nextInput s).rst = false →
    ¬((nextInput s).cmdValid = true ∧ decode (nextInput s).cmdWord = .init) →
    t.phase = .done ∧ t.dvalid = s.dvalid ∧ digestOut t = digestOut s ∧ ∀ sel, doutOut sel t = doutOut sel s

/-- 10_state R33: every field of the status word, and its value after reset. -/
def Obligations.StatusWordFields : Prop :=
  (∀ s : State,
    (statusOut s).extractLsb' 0 3 = s.phase.code ∧ (statusOut s).getLsbD 3 = decide (s.phase = .busy) ∧
    (statusOut s).getLsbD 4 = s.dvalid ∧ (statusOut s).getLsbD 5 = s.errOp ∧ (statusOut s).getLsbD 6 = s.errSeq ∧
    (statusOut s).getLsbD 7 = s.errLen ∧ (statusOut s).extractLsb' 8 2 = s.firstErr ∧ (statusOut s).getLsbD 10 = s.tail ∧
    (statusOut s).getLsbD 11 = s.fin ∧ (statusOut s).extractLsb' 12 4 = 0) ∧
  (Phase.idle.code = 0 ∧ Phase.ready.code = 1 ∧ Phase.busy.code = 2 ∧ Phase.done.code = 3 ∧ Phase.error.code = 4) ∧
  statusOut State.reset = 0x0000#16

/-- 10_state R32: the handshake. A command is accepted exactly when it is valid and CORE is ready; otherwise no command takes effect,
and `cmd_word` is not read. -/
def Obligations.HandshakeDecidesAcceptance : Prop :=
  ∀ (p : PortIn) (s : State),
    (cmdReadyOut p.rst s = true ↔ p.rst = false ∧ s.phase ≠ .busy) ∧
    (p.cmdValid = true → cmdReadyOut p.rst s = true → edge p s = exec (decode p.cmdWord) s) ∧
    (∀ q : PortIn, q.rst = p.rst → ¬(p.cmdValid = true ∧ cmdReadyOut p.rst s = true) →
      ¬(q.cmdValid = true ∧ cmdReadyOut q.rst s = true) → edge p s = edge q s)

/-! ## Reset and the step -/

/-- 70_reset R200: at an edge with `rst = 1` every register takes its reset value, from any state, the state before the first reset
among them (R202); no command is accepted. That a step takes the sample of its edge off `inputs` is the model's choice (log 1). -/
def Obligations.ResetEdgeSetsEveryRegister : Prop :=
  (∀ s : State, (nextInput s).rst = true → step s = .next { State.reset with inputs := s.inputs.tail }) ∧
  (∀ (p : PortIn) (rest : List PortIn), p.rst = true → step (State.powerUp (p :: rest)) = .next { State.reset with inputs := rest }) ∧
  (∀ s : State, cmdReadyOut true s = false) ∧
  State.reset.H = Vector.replicate 8 0 ∧ State.reset.wv = Vector.replicate 8 0 ∧ State.reset.W = Vector.replicate 16 0 ∧
  State.reset.t = 0 ∧ State.reset.bcnt = 0 ∧ State.reset.mlen = 0 ∧ State.reset.phase = .idle ∧ State.reset.fin = false ∧
  State.reset.pend2 = false ∧ State.reset.tail = false ∧ State.reset.dvalid = false ∧ State.reset.errOp = false ∧
  State.reset.errSeq = false ∧ State.reset.errLen = false ∧ State.reset.firstErr = 0

/-- 70_reset R201: the outputs in the first cycle with `rst = 0` after a reset edge. -/
def Obligations.OutputsAfterReset : Prop :=
  ∀ (p : PortIn) (ins : List PortIn), p.rst = false →
    outputs p { State.reset with inputs := ins } =
      { cmdReady := true, dout := 0, digest := 0, digestValid := false, busy := false, status := 0x0000#16 }

/-- CORE has no traps and no free choice (60_exceptions R188, 43_engine R164): every step of every state gives a next state. -/
def Obligations.EveryStepGivesANextState : Prop :=
  ∀ s : State, ∃ t, step s = .next t

/-- A step runs the command on the port: when the sample of the coming edge offers a word without reset and the phase is not BUSY, the
step is the meaning of the decoded command, with that sample taken off (43_engine R164; the list of samples is the model's choice,
log 1). So for a word placed by `withFetchWord`. -/
def Obligations.StepRunsTheOfferedCommand : Prop :=
  (∀ s : State, s.phase ≠ .busy → (nextInput s).rst = false → (nextInput s).cmdValid = true →
    step s = exec (decode (nextInput s).cmdWord) { s with inputs := s.inputs.tail }) ∧
  (∀ (s : State) (w : Nat), s.phase ≠ .busy → step (s.withFetchWord 40 w) = exec (decode (BitVec.ofNat 40 w)) s)

/-- CORE is one deterministic machine on the record of 10_state R29 (43_engine R164): the registers after an edge are a function of the
registers before it and of the port sample alone, so `inputs` is no register. That the samples stand in a list, which an edge does not
touch and a step shortens by one, is the model's choice (log 1). -/
def Obligations.RegistersFollowTheStepFunction : Prop :=
  (∀ (p : PortIn) (s : State), edge p s = .next { toRegisters := nextRegisters p s.toRegisters, inputs := s.inputs }) ∧
  (∀ s : State, step s = .next { toRegisters := nextRegisters (nextInput s) s.toRegisters, inputs := s.inputs.tail }) ∧
  (∀ (p : PortIn) (r : Registers), p.rst = true → nextRegisters p r = Registers.reset)

/-! ## Invariants and whole-machine rules -/

/-- The invariants of 10_state R35 hold at reset, whatever inputs are to come. -/
def Obligations.InvariantAtReset : Prop :=
  ∀ ins : List PortIn, ({ State.reset with inputs := ins } : State).Inv

/-- 10_state R35: every step keeps the ten invariants. -/
def Obligations.StepKeepsTheInvariant : Prop :=
  ∀ s t : State, s.Inv → step s = .next t → t.Inv

/-- `H` is written only by reset, by INIT, which loads H0, and by FOLD, which adds the working variables in (10_state R20). -/
def Obligations.OnlyInitAndFoldWriteH : Prop :=
  ∀ s t : State, step s = .next t → (nextInput s).rst = false →
    t.H = s.H ∨
    (s.phase ≠ .busy ∧ (nextInput s).cmdValid = true ∧ decode (nextInput s).cmdWord = .init ∧ t.H = h0rom) ∨
    (s.phase = .busy ∧ 64 ≤ s.t.toNat ∧ ∀ i : Fin 8, t.H[i] = s.H[i] + s.wv[i])

/-- INIT is the only way out of ERROR and out of DONE, but for reset (42_commands R142). -/
def Obligations.OnlyInitLeavesErrorAndDone : Prop :=
  ∀ s t : State, step s = .next t → (nextInput s).rst = false → s.phase = .error ∨ s.phase = .done →
    (t.phase = s.phase ∨ ((nextInput s).cmdValid = true ∧ decode (nextInput s).cmdWord = .init ∧ t.phase = .ready))

/-- Timing and control do not depend on data (70_reset R213): two states with the same control registers, given port samples that
differ at most in the message bytes, have the same control registers after a step, and so the same `status` and `cmd_ready`. -/
def Obligations.ControlIsIndependentOfData : Prop :=
  ∀ s s' t t' : State, s.control = s'.control → (nextInput s).SameButData (nextInput s') → step s = .next t →
    step s' = .next t' → t.control = t'.control ∧ statusOut t = statusOut t' ∧ ∀ r, cmdReadyOut r t = cmdReadyOut r t'

/-- States that differ at most in what R203 calls unobservable stay so, and show the same outputs. -/
def Obligations.AlikeStatesStayAlike : Prop :=
  (∀ s s' t t' : State, s.Inv → s.Alike s' → step s = .next t → step s' = .next t' → t.Alike t') ∧
  (∀ (s s' : State) (p : PortIn), s.Alike s' → outputs p s = outputs p s')

/-- 70_reset R203: whatever values `wv`, `W` and `t` had at reset, every later output is the same, for any inputs. -/
def Obligations.ResetValuesOfDatapathAreUnobservable : Prop :=
  ∀ (wv : Vector Word 8) (W : Vector Word 16) (t : BitVec 7) (ins : List PortIn) (n : Nat),
    ∃ u u', Host.Core.run Sys2Proof.core n { State.reset with inputs := ins } = .next u ∧
      Host.Core.run Sys2Proof.core n { State.reset with wv := wv, W := W, t := t, inputs := ins } = .next u' ∧
      ∀ p : PortIn, outputs p u = outputs p u'

/-- The don't-care bytes of an UPDATE are never observed (20_memory R59, 30_encoding R74): two UPDATEs that agree in their message bytes
leave states that no observation tells apart. -/
def Obligations.DontCareBytesAreUnobservable : Prop :=
  ∀ (s : State) (nb : BitVec 2) (d d' : Word), s.Inv → (∀ k < byteCount nb, byteOfWord d k = byteOfWord d' k) →
    ∃ u u', exec (.update nb d) s = .next u ∧ exec (.update nb d') s = .next u' ∧ u.Alike u'

/-- The instances of a chip are independent (60_exceptions R192): each steps as it would alone. That all step at one common edge is the
model's choice (log 9). -/
def Obligations.InstancesAreIndependent : Prop :=
  ∀ chip chip' : Chip, Chip.step chip = .next chip' →
    chip'.length = chip.length ∧
    ∀ (i : Nat) (h : i < chip.length) (h' : i < chip'.length), step chip[i] = .next chip'[i]

/-! ## Datapath functions and constants -/

/-- 40_functions R104 and R105: Ch and Maj bit by bit, and the rules' corner cases and examples. -/
def Obligations.ChAndMajBitByBit : Prop :=
  (∀ (x y z : Word) (i : Nat), i < 32 →
    (ch x y z).getLsbD i = (if x.getLsbD i then y.getLsbD i else z.getLsbD i) ∧
    (maj x y z).getLsbD i =
      decide (2 ≤ (x.getLsbD i).toNat + (y.getLsbD i).toNat + (z.getLsbD i).toNat)) ∧
  (∀ y z : Word, ch 0xFFFFFFFF#32 y z = y ∧ ch 0 y z = z) ∧
  (∀ x z : Word, maj x x z = x ∧ maj 0 0xFFFFFFFF#32 z = z) ∧
  ch 0x510E527F#32 0x9B05688C#32 0x1F83D9AB#32 = 0x1F85C98C#32 ∧
  maj 0x6A09E667#32 0xBB67AE85#32 0x3C6EF372#32 = 0x3A6FE667#32

/-- 40_functions R102 and R103: rotation and shift by a constant amount, bit by bit and as numbers, and the rules' examples. -/
def Obligations.RotateAndShift : Prop :=
  (∀ (n : Nat) (x : Word), 0 < n → n < 32 →
    (rotr n x).toNat = (x.toNat / 2 ^ n) ||| (x.toNat * 2 ^ (32 - n) % 2 ^ 32) ∧
    (∀ i < 32, (rotr n x).getLsbD i = x.getLsbD ((i + n) % 32)) ∧
    (shr n x).toNat = x.toNat / 2 ^ n) ∧
  rotr 7 0x00000001#32 = 0x02000000#32 ∧ shr 3 0x80000000#32 = 0x10000000#32

/-- 40_functions R106 to R109: the sigma functions, their corner cases and examples. -/
def Obligations.SigmaFunctions : Prop :=
  (∀ x : Word,
    bigSigma0 x = rotr 2 x ^^^ rotr 13 x ^^^ rotr 22 x ∧ bigSigma1 x = rotr 6 x ^^^ rotr 11 x ^^^ rotr 25 x ∧
    smallSigma0 x = rotr 7 x ^^^ rotr 18 x ^^^ shr 3 x ∧ smallSigma1 x = rotr 17 x ^^^ rotr 19 x ^^^ shr 10 x) ∧
  (bigSigma0 0 = 0 ∧ bigSigma1 0 = 0 ∧ smallSigma0 0 = 0 ∧ smallSigma1 0 = 0) ∧
  (bigSigma0 0xFFFFFFFF#32 = 0xFFFFFFFF#32 ∧ bigSigma1 0xFFFFFFFF#32 = 0xFFFFFFFF#32 ∧
    smallSigma0 0xFFFFFFFF#32 = 0x1FFFFFFF#32 ∧ smallSigma1 0xFFFFFFFF#32 = 0x003FFFFF#32) ∧
  (bigSigma0 0x6A09E667#32 = 0xCE20B47E#32 ∧ bigSigma1 0x510E527F#32 = 0x3587272B#32 ∧
    smallSigma0 0x00000001#32 = 0x02004000#32 ∧ smallSigma1 0x00000001#32 = 0x0000A000#32)

/-- 41_constants_rom R131 and R132: `K[i]` is the first 32 bits of the fractional part of the cube root of the (i+1)-th prime, and
`H0[i]` those of its square root. -/
def Obligations.ConstantsAreRootsOfPrimes : Prop :=
  (∀ i j : Fin 64, i < j → firstPrimes[i] < firstPrimes[j]) ∧
  (∀ p : Nat, p < 312 → (p.Prime ↔ p ∈ firstPrimes.toList)) ∧
  (∀ i : Fin 64, ∃ a : Nat, (2 ^ 32 * a + (krom i.val).toNat) ^ 3 ≤ firstPrimes[i] * 2 ^ 96 ∧
    firstPrimes[i] * 2 ^ 96 < (2 ^ 32 * a + (krom i.val).toNat + 1) ^ 3) ∧
  (∀ i : Fin 8, ∃ a : Nat, (2 ^ 32 * a + h0rom[i].toNat) ^ 2 ≤ firstPrimes[i.val] * 2 ^ 64 ∧
    firstPrimes[i.val] * 2 ^ 64 < (2 ^ 32 * a + h0rom[i].toNat + 1) ^ 2)

/-- 20_memory R52: the BUF primitives. -/
def Obligations.BufWriteIsBigEndian : Prop :=
  (∀ (W : Vector Word 16) (j n : Nat) (v : BitVec (8 * n)), 1 ≤ n → n ≤ 4 → j + n ≤ 64 →
    (∀ a : Fin 64, j ≤ a.val → a.val < j + n →
      (bufByte (memWriteBuf W j n v) a).toNat = v.toNat / 2 ^ (8 * (n - 1 - (a.val - j))) % 256) ∧
    (∀ a : Fin 64, a.val < j ∨ j + n ≤ a.val → bufByte (memWriteBuf W j n v) a = bufByte W a)) ∧
  (∀ (W : Vector Word 16) (i : Fin 16), memReadBuf W i = W[i])

/-- 20_memory R57: the length field of the padding. -/
def Obligations.LengthFieldIsBigEndian : Prop :=
  ∀ (mlen : BitVec 61) (W : Vector Word 16) (k : Nat), k ≤ 55 →
    (lengthBits mlen).toNat = 8 * mlen.toNat ∧
    (∀ j : Fin 64, 56 ≤ j.val →
      bufByte (finalBlock W k (lengthBits mlen)) j = (lengthBits mlen).extractLsb' (8 * (63 - j.val)) 8 ∧
      bufByte (lengthBlock (lengthBits mlen)) j = (lengthBits mlen).extractLsb' (8 * (63 - j.val)) 8) ∧
    (finalBlock W k (lengthBits mlen))[14] = (lengthBits mlen).extractLsb' 32 32 ∧
    (finalBlock W k (lengthBits mlen))[15] = (lengthBits mlen).extractLsb' 0 32

/-- 40_functions R110 and R111: the byte/word converter in both directions. -/
def Obligations.ConverterIsBigEndian : Prop :=
  (∀ b0 b1 b2 b3 : Byte, (be32 b0 b1 b2 b3).toNat = b0.toNat * 2 ^ 24 + b1.toNat * 2 ^ 16 + b2.toNat * 2 ^ 8 + b3.toNat ∧
    unbe32 (be32 b0 b1 b2 b3) = [b0, b1, b2, b3]) ∧
  (∀ w : Word, unbe32 w = [w.extractLsb' 24 8, w.extractLsb' 16 8, w.extractLsb' 8 8, w.extractLsb' 0 8]) ∧
  (∀ (B : Fin 64 → Byte) (i : Fin 16), (wordsOfBytes B)[i] =
    be32 (B ⟨4 * i.val, by omega⟩) (B ⟨4 * i.val + 1, by omega⟩) (B ⟨4 * i.val + 2, by omega⟩) (B ⟨4 * i.val + 3, by omega⟩)) ∧
  be32 0x61 0x62 0x63 0x80 = 0x61626380#32 ∧ unbe32 0xBA7816BF#32 = [0xBA, 0x78, 0x16, 0xBF]
end

