-- ==== Sys2Proof/Laws/Operands.lean ====
section
/-! SUPPORT. The spec lemmas of the byte/word converter and of the BUF byte map: a byte of a word built from bytes, and a byte of
each block the machine writes. -/

namespace Sys2Proof.Machine

@[simp] theorem byteOfWord_be32_zero (b0 b1 b2 b3 : Byte) : byteOfWord (be32 b0 b1 b2 b3) 0 = b0 := by
  ext i hi; simp [byteOfWord, be32]; grind

@[simp] theorem byteOfWord_be32_one (b0 b1 b2 b3 : Byte) : byteOfWord (be32 b0 b1 b2 b3) 1 = b1 := by
  ext i hi; simp [byteOfWord, be32]; grind

@[simp] theorem byteOfWord_be32_two (b0 b1 b2 b3 : Byte) : byteOfWord (be32 b0 b1 b2 b3) 2 = b2 := by
  ext i hi; simp [byteOfWord, be32]; grind

@[simp] theorem byteOfWord_be32_three (b0 b1 b2 b3 : Byte) : byteOfWord (be32 b0 b1 b2 b3) 3 = b3 := by
  ext i hi; simp [byteOfWord, be32]; grind

/-- A word is the big-endian reading of its four bytes. -/
@[simp] theorem be32_byteOfWord (w : Word) :
    be32 (byteOfWord w 0) (byteOfWord w 1) (byteOfWord w 2) (byteOfWord w 3) = w := by
  ext i hi; simp [byteOfWord, be32]; grind

/-- Two words with the same four bytes are equal. -/
theorem word_ext_bytes {w w' : Word} (h : ∀ k < 4, byteOfWord w k = byteOfWord w' k) : w = w' := by
  rw [← be32_byteOfWord w, ← be32_byteOfWord w', h 0 (by decide), h 1 (by decide), h 2 (by decide), h 3 (by decide)]

/-- Byte `j` of the words built from the bytes `B` is `B j` (20_memory R51). -/
@[simp] theorem bufByte_wordsOfBytes (B : Fin 64 → Byte) (j : Fin 64) : bufByte (wordsOfBytes B) j = B j := by
  obtain ⟨j, hj⟩ := j
  obtain ⟨q, r, hr, rfl⟩ : ∃ q r, r < 4 ∧ j = 4 * q + r := ⟨j / 4, j % 4, Nat.mod_lt _ (by decide), by omega⟩
  have hq : (4 * q + r) / 4 = q := by omega
  have hm : (4 * q + r) % 4 = r := by omega
  simp only [bufByte, wordsOfBytes, Vector.getElem_ofFn, hq, hm]
  obtain rfl | rfl | rfl | rfl : r = 0 ∨ r = 1 ∨ r = 2 ∨ r = 3 := by omega
  all_goals simp

/-- A word of BUF is the big-endian reading of its four bytes. -/
theorem word_of_bufBytes (W : Vector Word 16) (i : Nat) (hi : i < 16) :
    W[i] = be32 (bufByte W ⟨4 * i, by omega⟩) (bufByte W ⟨4 * i + 1, by omega⟩) (bufByte W ⟨4 * i + 2, by omega⟩)
      (bufByte W ⟨4 * i + 3, by omega⟩) := by
  have h0 : 4 * i / 4 = i := by omega
  have h1 : (4 * i + 1) / 4 = i := by omega
  have h2 : (4 * i + 2) / 4 = i := by omega
  have h3 : (4 * i + 3) / 4 = i := by omega
  have r0 : 4 * i % 4 = 0 := by omega
  have r1 : (4 * i + 1) % 4 = 1 := by omega
  have r2 : (4 * i + 2) % 4 = 2 := by omega
  have r3 : (4 * i + 3) % 4 = 3 := by omega
  simp [bufByte, h0, h1, h2, h3, r1, r2, r3]

/-- Two buffers with the same 64 bytes are equal. -/
theorem buf_ext_bytes {W W' : Vector Word 16} (h : ∀ j : Fin 64, bufByte W j = bufByte W' j) : W = W' := by
  apply Vector.ext
  intro i hi
  rw [word_of_bufBytes W i hi, word_of_bufBytes W' i hi, h, h, h, h]

/-- The words built from the bytes of a buffer are that buffer. -/
@[simp] theorem wordsOfBytes_bufByte (W : Vector Word 16) : wordsOfBytes (bufByte W) = W :=
  buf_ext_bytes fun j => bufByte_wordsOfBytes _ j

/-- Word `i` of the words built from bytes (40_functions R110). -/
theorem wordsOfBytes_get (B : Fin 64 → Byte) (i : Nat) (hi : i < 16) :
    (wordsOfBytes B)[i] = be32 (B ⟨4 * i, by omega⟩) (B ⟨4 * i + 1, by omega⟩) (B ⟨4 * i + 2, by omega⟩)
      (B ⟨4 * i + 3, by omega⟩) := by
  simp [wordsOfBytes]

/-- What a word write does to each byte of BUF (20_memory R52, 42_commands R143). -/
theorem bufByte_writeBufWord (W : Vector Word 16) (bcnt : BitVec 6) (data : Word) (j : Fin 64) :
    bufByte (writeBufWord W bcnt data) j =
      if j.val / 4 = bcnt.toNat / 4 then byteOfWord data (j.val % 4) else bufByte W j := by
  simp only [bufByte, writeBufWord, Vector.getElem_set]
  grind

/-- What `MemWrite(BUF, j, n, v)` does to each byte of BUF (20_memory R52). -/
theorem bufByte_memWriteBuf (W : Vector Word 16) (j n : Nat) (v : BitVec (8 * n)) (a : Fin 64) :
    bufByte (memWriteBuf W j n v) a =
      if j ≤ a.val ∧ a.val < j + n then v.extractLsb' (8 * (n - 1 - (a.val - j))) 8 else bufByte W a := by
  simp only [memWriteBuf, bufByte_wordsOfBytes]

/-- The bytes of the block FINAL writes (42_commands R145). -/
@[simp] theorem bufByte_finalBlock (W : Vector Word 16) (k : Nat) (lbits : BitVec 64) (j : Fin 64) :
    bufByte (finalBlock W k lbits) j = finalByte W k lbits j := by
  simp only [finalBlock, bufByte_wordsOfBytes]

/-- The first 14 words of the second padding block are 0 (43_engine R163). -/
theorem lengthBlock_zero (lbits : BitVec 64) (i : Nat) (hi : i < 14) : (lengthBlock lbits)[i]'(by omega) = 0 := by
  interval_cases i <;> rfl

/-- The bytes of the second padding block (43_engine R163, 20_memory R57). -/
theorem bufByte_lengthBlock (lbits : BitVec 64) (j : Fin 64) :
    bufByte (lengthBlock lbits) j = if 56 ≤ j.val then byteOfDouble lbits (j.val - 56) else 0 := by
  have hz : ∀ k, byteOfWord 0 k = 0 := by intro k; simp [byteOfWord]
  obtain ⟨j, hj⟩ := j
  by_cases h : j < 56
  · simp only [bufByte, lengthBlock_zero lbits (j / 4) (by omega), hz]
    rw [if_neg (by omega)]
  · rw [if_pos (by simpa using h)]
    simp only [bufByte]
    obtain rfl | rfl | rfl | rfl | rfl | rfl | rfl | rfl :
      j = 56 ∨ j = 57 ∨ j = 58 ∨ j = 59 ∨ j = 60 ∨ j = 61 ∨ j = 62 ∨ j = 63 := by omega
    all_goals
      ext i hi
      simp [lengthBlock, byteOfWord, byteOfDouble]
      try grind

/-- `Lbits = 8 * mlen`, with nothing lost (20_memory R57, 40_functions R113). -/
@[simp] theorem lengthBits_toNat (mlen : BitVec 61) : (lengthBits mlen).toNat = 8 * mlen.toNat := by
  have h : (mlen ++ 0#3 : BitVec 64).toNat = mlen.toNat <<< 3 ||| (0#3).toNat := BitVec.toNat_append _ _
  simp only [lengthBits]
  rw [h]
  simp [Nat.shiftLeft_eq]
  omega

/-- `n` is 1 to 4 (30_encoding R72). -/
theorem byteCount_pos (nb : BitVec 2) : 1 ≤ byteCount nb := by simp [byteCount]

theorem byteCount_le (nb : BitVec 2) : byteCount nb ≤ 4 := by
  have := nb.isLt
  simp only [byteCount]
  omega

end Sys2Proof.Machine
end

