-- ==== Sys2Proof/Laws/State.lean ====
section
/-! SUPPORT. One lemma for each field under each unconditional state update, so that no later proof unfolds a record update. -/

namespace Sys2Proof.Machine

@[simp] theorem State.reset_toRegisters : State.reset.toRegisters = Registers.reset := rfl
@[simp] theorem State.reset_inputs : State.reset.inputs = [] := rfl
@[simp] theorem Registers.reset_H : Registers.reset.H = Vector.replicate 8 0 := rfl
@[simp] theorem Registers.reset_wv : Registers.reset.wv = Vector.replicate 8 0 := rfl
@[simp] theorem Registers.reset_W : Registers.reset.W = Vector.replicate 16 0 := rfl
@[simp] theorem Registers.reset_t : Registers.reset.t = 0 := rfl
@[simp] theorem Registers.reset_bcnt : Registers.reset.bcnt = 0 := rfl
@[simp] theorem Registers.reset_mlen : Registers.reset.mlen = 0 := rfl
@[simp] theorem Registers.reset_phase : Registers.reset.phase = .idle := rfl
@[simp] theorem Registers.reset_fin : Registers.reset.fin = false := rfl
@[simp] theorem Registers.reset_pend2 : Registers.reset.pend2 = false := rfl
@[simp] theorem Registers.reset_tail : Registers.reset.tail = false := rfl
@[simp] theorem Registers.reset_dvalid : Registers.reset.dvalid = false := rfl
@[simp] theorem Registers.reset_errOp : Registers.reset.errOp = false := rfl
@[simp] theorem Registers.reset_errSeq : Registers.reset.errSeq = false := rfl
@[simp] theorem Registers.reset_errLen : Registers.reset.errLen = false := rfl
@[simp] theorem Registers.reset_firstErr : Registers.reset.firstErr = 0 := rfl

@[simp] theorem raise_H (c : ErrCause) (s : State) : (raise c s).H = s.H := rfl
@[simp] theorem raise_wv (c : ErrCause) (s : State) : (raise c s).wv = s.wv := rfl
@[simp] theorem raise_W (c : ErrCause) (s : State) : (raise c s).W = s.W := rfl
@[simp] theorem raise_t (c : ErrCause) (s : State) : (raise c s).t = s.t := rfl
@[simp] theorem raise_bcnt (c : ErrCause) (s : State) : (raise c s).bcnt = s.bcnt := rfl
@[simp] theorem raise_mlen (c : ErrCause) (s : State) : (raise c s).mlen = s.mlen := rfl
@[simp] theorem raise_phase (c : ErrCause) (s : State) : (raise c s).phase = (if c = .len then .error else s.phase) := rfl
@[simp] theorem raise_fin (c : ErrCause) (s : State) : (raise c s).fin = s.fin := rfl
@[simp] theorem raise_pend2 (c : ErrCause) (s : State) : (raise c s).pend2 = s.pend2 := rfl
@[simp] theorem raise_tail (c : ErrCause) (s : State) : (raise c s).tail = s.tail := rfl
@[simp] theorem raise_dvalid (c : ErrCause) (s : State) : (raise c s).dvalid = s.dvalid := rfl
@[simp] theorem raise_errOp (c : ErrCause) (s : State) : (raise c s).errOp = (s.errOp || c == .op) := rfl
@[simp] theorem raise_errSeq (c : ErrCause) (s : State) : (raise c s).errSeq = (s.errSeq || c == .seq) := rfl
@[simp] theorem raise_errLen (c : ErrCause) (s : State) : (raise c s).errLen = (s.errLen || c == .len) := rfl
@[simp] theorem raise_firstErr (c : ErrCause) (s : State) : (raise c s).firstErr = (if s.firstErr = 0 then c.code else s.firstErr) := rfl
@[simp] theorem raise_inputs (c : ErrCause) (s : State) : (raise c s).inputs = s.inputs := rfl

@[simp] theorem load_H (Hsrc : Vector Word 8) (s : State) : (load Hsrc s).H = s.H := rfl
@[simp] theorem load_wv (Hsrc : Vector Word 8) (s : State) : (load Hsrc s).wv = Hsrc := rfl
@[simp] theorem load_W (Hsrc : Vector Word 8) (s : State) : (load Hsrc s).W = s.W := rfl
@[simp] theorem load_t (Hsrc : Vector Word 8) (s : State) : (load Hsrc s).t = 0 := rfl
@[simp] theorem load_bcnt (Hsrc : Vector Word 8) (s : State) : (load Hsrc s).bcnt = s.bcnt := rfl
@[simp] theorem load_mlen (Hsrc : Vector Word 8) (s : State) : (load Hsrc s).mlen = s.mlen := rfl
@[simp] theorem load_phase (Hsrc : Vector Word 8) (s : State) : (load Hsrc s).phase = .busy := rfl
@[simp] theorem load_fin (Hsrc : Vector Word 8) (s : State) : (load Hsrc s).fin = s.fin := rfl
@[simp] theorem load_pend2 (Hsrc : Vector Word 8) (s : State) : (load Hsrc s).pend2 = s.pend2 := rfl
@[simp] theorem load_tail (Hsrc : Vector Word 8) (s : State) : (load Hsrc s).tail = s.tail := rfl
@[simp] theorem load_dvalid (Hsrc : Vector Word 8) (s : State) : (load Hsrc s).dvalid = s.dvalid := rfl
@[simp] theorem load_errOp (Hsrc : Vector Word 8) (s : State) : (load Hsrc s).errOp = s.errOp := rfl
@[simp] theorem load_errSeq (Hsrc : Vector Word 8) (s : State) : (load Hsrc s).errSeq = s.errSeq := rfl
@[simp] theorem load_errLen (Hsrc : Vector Word 8) (s : State) : (load Hsrc s).errLen = s.errLen := rfl
@[simp] theorem load_firstErr (Hsrc : Vector Word 8) (s : State) : (load Hsrc s).firstErr = s.firstErr := rfl
@[simp] theorem load_inputs (Hsrc : Vector Word 8) (s : State) : (load Hsrc s).inputs = s.inputs := rfl

@[simp] theorem hardReset_H (s : State) : (hardReset s).H = State.reset.H := rfl
@[simp] theorem hardReset_wv (s : State) : (hardReset s).wv = State.reset.wv := rfl
@[simp] theorem hardReset_W (s : State) : (hardReset s).W = State.reset.W := rfl
@[simp] theorem hardReset_t (s : State) : (hardReset s).t = State.reset.t := rfl
@[simp] theorem hardReset_bcnt (s : State) : (hardReset s).bcnt = State.reset.bcnt := rfl
@[simp] theorem hardReset_mlen (s : State) : (hardReset s).mlen = State.reset.mlen := rfl
@[simp] theorem hardReset_phase (s : State) : (hardReset s).phase = State.reset.phase := rfl
@[simp] theorem hardReset_fin (s : State) : (hardReset s).fin = State.reset.fin := rfl
@[simp] theorem hardReset_pend2 (s : State) : (hardReset s).pend2 = State.reset.pend2 := rfl
@[simp] theorem hardReset_tail (s : State) : (hardReset s).tail = State.reset.tail := rfl
@[simp] theorem hardReset_dvalid (s : State) : (hardReset s).dvalid = State.reset.dvalid := rfl
@[simp] theorem hardReset_errOp (s : State) : (hardReset s).errOp = State.reset.errOp := rfl
@[simp] theorem hardReset_errSeq (s : State) : (hardReset s).errSeq = State.reset.errSeq := rfl
@[simp] theorem hardReset_errLen (s : State) : (hardReset s).errLen = State.reset.errLen := rfl
@[simp] theorem hardReset_firstErr (s : State) : (hardReset s).firstErr = State.reset.firstErr := rfl
@[simp] theorem hardReset_inputs (s : State) : (hardReset s).inputs = s.inputs := rfl

@[simp] theorem popInput_H (s : State) : (popInput s).H = s.H := rfl
@[simp] theorem popInput_wv (s : State) : (popInput s).wv = s.wv := rfl
@[simp] theorem popInput_W (s : State) : (popInput s).W = s.W := rfl
@[simp] theorem popInput_t (s : State) : (popInput s).t = s.t := rfl
@[simp] theorem popInput_bcnt (s : State) : (popInput s).bcnt = s.bcnt := rfl
@[simp] theorem popInput_mlen (s : State) : (popInput s).mlen = s.mlen := rfl
@[simp] theorem popInput_phase (s : State) : (popInput s).phase = s.phase := rfl
@[simp] theorem popInput_fin (s : State) : (popInput s).fin = s.fin := rfl
@[simp] theorem popInput_pend2 (s : State) : (popInput s).pend2 = s.pend2 := rfl
@[simp] theorem popInput_tail (s : State) : (popInput s).tail = s.tail := rfl
@[simp] theorem popInput_dvalid (s : State) : (popInput s).dvalid = s.dvalid := rfl
@[simp] theorem popInput_errOp (s : State) : (popInput s).errOp = s.errOp := rfl
@[simp] theorem popInput_errSeq (s : State) : (popInput s).errSeq = s.errSeq := rfl
@[simp] theorem popInput_errLen (s : State) : (popInput s).errLen = s.errLen := rfl
@[simp] theorem popInput_firstErr (s : State) : (popInput s).firstErr = s.firstErr := rfl
@[simp] theorem popInput_inputs (s : State) : (popInput s).inputs = s.inputs.tail := rfl

@[simp] theorem initEffect_H (s : State) : (initEffect s).H = h0rom := rfl
@[simp] theorem initEffect_wv (s : State) : (initEffect s).wv = s.wv := rfl
@[simp] theorem initEffect_W (s : State) : (initEffect s).W = s.W := rfl
@[simp] theorem initEffect_t (s : State) : (initEffect s).t = s.t := rfl
@[simp] theorem initEffect_bcnt (s : State) : (initEffect s).bcnt = 0 := rfl
@[simp] theorem initEffect_mlen (s : State) : (initEffect s).mlen = 0 := rfl
@[simp] theorem initEffect_phase (s : State) : (initEffect s).phase = .ready := rfl
@[simp] theorem initEffect_fin (s : State) : (initEffect s).fin = false := rfl
@[simp] theorem initEffect_pend2 (s : State) : (initEffect s).pend2 = false := rfl
@[simp] theorem initEffect_tail (s : State) : (initEffect s).tail = false := rfl
@[simp] theorem initEffect_dvalid (s : State) : (initEffect s).dvalid = false := rfl
@[simp] theorem initEffect_errOp (s : State) : (initEffect s).errOp = false := rfl
@[simp] theorem initEffect_errSeq (s : State) : (initEffect s).errSeq = false := rfl
@[simp] theorem initEffect_errLen (s : State) : (initEffect s).errLen = false := rfl
@[simp] theorem initEffect_firstErr (s : State) : (initEffect s).firstErr = 0 := rfl
@[simp] theorem initEffect_inputs (s : State) : (initEffect s).inputs = s.inputs := rfl

@[simp] theorem padMessage_H (s : State) : (padMessage s).H = s.H := rfl
@[simp] theorem padMessage_wv (s : State) : (padMessage s).wv = s.H := rfl
@[simp] theorem padMessage_W (s : State) : (padMessage s).W = (finalBlock s.W s.bcnt.toNat (lengthBits s.mlen)) := rfl
@[simp] theorem padMessage_t (s : State) : (padMessage s).t = 0 := rfl
@[simp] theorem padMessage_bcnt (s : State) : (padMessage s).bcnt = 0 := rfl
@[simp] theorem padMessage_mlen (s : State) : (padMessage s).mlen = s.mlen := rfl
@[simp] theorem padMessage_phase (s : State) : (padMessage s).phase = .busy := rfl
@[simp] theorem padMessage_fin (s : State) : (padMessage s).fin = true := rfl
@[simp] theorem padMessage_pend2 (s : State) : (padMessage s).pend2 = (decide (56 ≤ s.bcnt.toNat)) := rfl
@[simp] theorem padMessage_tail (s : State) : (padMessage s).tail = s.tail := rfl
@[simp] theorem padMessage_dvalid (s : State) : (padMessage s).dvalid = s.dvalid := rfl
@[simp] theorem padMessage_errOp (s : State) : (padMessage s).errOp = s.errOp := rfl
@[simp] theorem padMessage_errSeq (s : State) : (padMessage s).errSeq = s.errSeq := rfl
@[simp] theorem padMessage_errLen (s : State) : (padMessage s).errLen = s.errLen := rfl
@[simp] theorem padMessage_firstErr (s : State) : (padMessage s).firstErr = s.firstErr := rfl
@[simp] theorem padMessage_inputs (s : State) : (padMessage s).inputs = s.inputs := rfl

@[simp] theorem roundEdge_H (s : State) : (roundEdge s).H = s.H := rfl
@[simp] theorem roundEdge_wv (s : State) : (roundEdge s).wv = (roundStep (krom s.t.toNat) (roundWord s.W s.t.toNat) s.wv) := rfl
@[simp] theorem roundEdge_W (s : State) : (roundEdge s).W = (roundWindow s.W s.t.toNat) := rfl
@[simp] theorem roundEdge_t (s : State) : (roundEdge s).t = (s.t + 1) := rfl
@[simp] theorem roundEdge_bcnt (s : State) : (roundEdge s).bcnt = s.bcnt := rfl
@[simp] theorem roundEdge_mlen (s : State) : (roundEdge s).mlen = s.mlen := rfl
@[simp] theorem roundEdge_phase (s : State) : (roundEdge s).phase = s.phase := rfl
@[simp] theorem roundEdge_fin (s : State) : (roundEdge s).fin = s.fin := rfl
@[simp] theorem roundEdge_pend2 (s : State) : (roundEdge s).pend2 = s.pend2 := rfl
@[simp] theorem roundEdge_tail (s : State) : (roundEdge s).tail = s.tail := rfl
@[simp] theorem roundEdge_dvalid (s : State) : (roundEdge s).dvalid = s.dvalid := rfl
@[simp] theorem roundEdge_errOp (s : State) : (roundEdge s).errOp = s.errOp := rfl
@[simp] theorem roundEdge_errSeq (s : State) : (roundEdge s).errSeq = s.errSeq := rfl
@[simp] theorem roundEdge_errLen (s : State) : (roundEdge s).errLen = s.errLen := rfl
@[simp] theorem roundEdge_firstErr (s : State) : (roundEdge s).firstErr = s.firstErr := rfl
@[simp] theorem roundEdge_inputs (s : State) : (roundEdge s).inputs = s.inputs := rfl

@[simp] theorem offerWord_H (s : State) (nbits w : Nat) : (offerWord s nbits w).H = s.H := rfl
@[simp] theorem offerWord_wv (s : State) (nbits w : Nat) : (offerWord s nbits w).wv = s.wv := rfl
@[simp] theorem offerWord_W (s : State) (nbits w : Nat) : (offerWord s nbits w).W = s.W := rfl
@[simp] theorem offerWord_t (s : State) (nbits w : Nat) : (offerWord s nbits w).t = s.t := rfl
@[simp] theorem offerWord_bcnt (s : State) (nbits w : Nat) : (offerWord s nbits w).bcnt = s.bcnt := rfl
@[simp] theorem offerWord_mlen (s : State) (nbits w : Nat) : (offerWord s nbits w).mlen = s.mlen := rfl
@[simp] theorem offerWord_phase (s : State) (nbits w : Nat) : (offerWord s nbits w).phase = s.phase := rfl
@[simp] theorem offerWord_fin (s : State) (nbits w : Nat) : (offerWord s nbits w).fin = s.fin := rfl
@[simp] theorem offerWord_pend2 (s : State) (nbits w : Nat) : (offerWord s nbits w).pend2 = s.pend2 := rfl
@[simp] theorem offerWord_tail (s : State) (nbits w : Nat) : (offerWord s nbits w).tail = s.tail := rfl
@[simp] theorem offerWord_dvalid (s : State) (nbits w : Nat) : (offerWord s nbits w).dvalid = s.dvalid := rfl
@[simp] theorem offerWord_errOp (s : State) (nbits w : Nat) : (offerWord s nbits w).errOp = s.errOp := rfl
@[simp] theorem offerWord_errSeq (s : State) (nbits w : Nat) : (offerWord s nbits w).errSeq = s.errSeq := rfl
@[simp] theorem offerWord_errLen (s : State) (nbits w : Nat) : (offerWord s nbits w).errLen = s.errLen := rfl
@[simp] theorem offerWord_firstErr (s : State) (nbits w : Nat) : (offerWord s nbits w).firstErr = s.firstErr := rfl
@[simp] theorem offerWord_inputs (s : State) (nbits w : Nat) : (offerWord s nbits w).inputs = (PortIn.command (tableWord nbits w) :: s.inputs) := rfl

/-- A state is the values of its fields. -/
theorem state_ext {s s' : State} (hH : s.H = s'.H) (hwv : s.wv = s'.wv) (hW : s.W = s'.W) (ht : s.t = s'.t)
    (hb : s.bcnt = s'.bcnt) (hm : s.mlen = s'.mlen) (hp : s.phase = s'.phase) (hf : s.fin = s'.fin)
    (h2 : s.pend2 = s'.pend2) (hta : s.tail = s'.tail) (hd : s.dvalid = s'.dvalid) (ho : s.errOp = s'.errOp)
    (hs : s.errSeq = s'.errSeq) (hl : s.errLen = s'.errLen) (h1 : s.firstErr = s'.firstErr)
    (hi : s.inputs = s'.inputs) : s = s' := by
  obtain ⟨⟨_⟩, _⟩ := s
  obtain ⟨⟨_⟩, _⟩ := s'
  simp_all

end Sys2Proof.Machine
end

