-- ==== Sys2Proof/Laws/Commands.lean ====
section
/-! SUPPORT. What a command can do, said once: when an offered command is accepted, the cases of UPDATE and FINAL, and one
inversion lemma for `exec`. Later proofs cite these lemmas instead of unfolding the meanings. -/

namespace Sys2Proof.Machine

theorem accepted_busy {s s' : State} (h : s.phase = .busy) : accepted s s' = .next s := by simp [accepted, h]

theorem accepted_free {s s' : State} (h : s.phase ≠ .busy) : accepted s s' = .next s' := by simp [accepted, h]

/-- The cases of a legal UPDATE that fits (42_commands R143): a partial word. -/
theorem absorb_partial {nb : BitVec 2} {data : Word} {s : State} (h : byteCount nb < 4) :
    absorb nb data s =
      { s with
        W := writeBufWord s.W s.bcnt data
        mlen := s.mlen + BitVec.ofNat 61 (byteCount nb)
        tail := true
        bcnt := s.bcnt + BitVec.ofNat 6 (byteCount nb) } := by
  simp [absorb, h]

/-- A full word that completes the block. -/
theorem absorb_full {nb : BitVec 2} {data : Word} {s : State} (h : byteCount nb = 4) (hb : s.bcnt = 60) :
    absorb nb data s =
      { s with
        W := writeBufWord s.W s.bcnt data
        mlen := s.mlen + BitVec.ofNat 61 (byteCount nb)
        bcnt := 0
        wv := s.H
        t := 0
        phase := .busy } := by
  simp [absorb, load, h, hb]

/-- A full word that does not complete the block. -/
theorem absorb_word {nb : BitVec 2} {data : Word} {s : State} (h : byteCount nb = 4) (hb : s.bcnt ≠ 60) :
    absorb nb data s =
      { s with
        W := writeBufWord s.W s.bcnt data
        mlen := s.mlen + BitVec.ofNat 61 (byteCount nb)
        bcnt := s.bcnt + 4 } := by
  simp only [absorb, h, if_neg hb, Nat.lt_irrefl, if_false]

/-- What a legal UPDATE that fits can do. -/
theorem absorb_cases (nb : BitVec 2) (data : Word) (s : State) :
    (byteCount nb < 4 ∧
      absorb nb data s =
        { s with
          W := writeBufWord s.W s.bcnt data
          mlen := s.mlen + BitVec.ofNat 61 (byteCount nb)
          tail := true
          bcnt := s.bcnt + BitVec.ofNat 6 (byteCount nb) }) ∨
    (byteCount nb = 4 ∧ s.bcnt = 60 ∧
      absorb nb data s =
        { s with
          W := writeBufWord s.W s.bcnt data
          mlen := s.mlen + BitVec.ofNat 61 (byteCount nb)
          bcnt := 0
          wv := s.H
          t := 0
          phase := .busy }) ∨
    (byteCount nb = 4 ∧ s.bcnt ≠ 60 ∧
      absorb nb data s =
        { s with
          W := writeBufWord s.W s.bcnt data
          mlen := s.mlen + BitVec.ofNat 61 (byteCount nb)
          bcnt := s.bcnt + 4 }) := by
  have h4 := byteCount_le nb
  by_cases h : byteCount nb < 4
  · exact .inl ⟨h, absorb_partial h⟩
  · have h' : byteCount nb = 4 := by omega
    by_cases hb : s.bcnt = 60
    · exact .inr (.inl ⟨h', hb, absorb_full h' hb⟩)
    · exact .inr (.inr ⟨h', hb, absorb_word h' hb⟩)

/-- What UPDATE can do (42_commands R140, R143, 60_exceptions R183, R184). -/
theorem updateEffect_cases (nb : BitVec 2) (data : Word) (s : State) :
    ((s.phase ≠ .ready ∨ s.tail = true) ∧ updateEffect nb data s = raise .seq s) ∨
    (s.phase = .ready ∧ s.tail = false ∧ s.mlen.toNat + byteCount nb > Config.maxMsgBytes ∧
      updateEffect nb data s = raise .len s) ∨
    (s.phase = .ready ∧ s.tail = false ∧ s.mlen.toNat + byteCount nb ≤ Config.maxMsgBytes ∧
      updateEffect nb data s = absorb nb data s) := by
  by_cases h : s.phase ≠ .ready ∨ s.tail = true
  · exact .inl ⟨h, by simp only [updateEffect, if_pos h]⟩
  · have h' : s.phase = .ready ∧ s.tail = false := by simpa using h
    by_cases hl : s.mlen.toNat + byteCount nb > Config.maxMsgBytes
    · exact .inr (.inl ⟨h'.1, h'.2, hl, by simp only [updateEffect, if_neg h, if_pos hl]⟩)
    · exact .inr (.inr ⟨h'.1, h'.2, by omega, by simp only [updateEffect, if_neg h, if_neg hl]⟩)

/-- What FINAL can do (42_commands R140, R145). -/
theorem finalEffect_cases (s : State) :
    (s.phase ≠ .ready ∧ finalEffect s = raise .seq s) ∨ (s.phase = .ready ∧ finalEffect s = padMessage s) := by
  by_cases h : s.phase = .ready
  · exact .inr ⟨h, by simp [finalEffect, h]⟩
  · exact .inl ⟨h, by simp [finalEffect, h]⟩

/-- The effect of a command that is accepted (42_commands R140). -/
def commandEffect (i : Instr) (s : State) : State :=
  match i with
  | .nop => s
  | .init => initEffect s
  | .update nb data => updateEffect nb data s
  | .final => finalEffect s
  | .reservedOpLow _ => raise .op s
  | .reservedOpHigh _ => raise .op s
  | .reservedRsvOdd _ => raise .op s
  | .reservedRsvTwo _ => raise .op s

/-- Every meaning is the acceptance of the command's effect. -/
theorem exec_eq_accepted (i : Instr) (s : State) : exec i s = accepted s (commandEffect i s) := by
  cases i <;> rfl

/-- A command offered while BUSY has no effect (42_commands R140). -/
theorem exec_busy (i : Instr) {s : State} (h : s.phase = .busy) : exec i s = .next s := by
  rw [exec_eq_accepted, accepted_busy h]

/-- A command offered in any other phase has its effect. -/
theorem exec_free (i : Instr) {s : State} (h : s.phase ≠ .busy) : exec i s = .next (commandEffect i s) := by
  rw [exec_eq_accepted, accepted_free h]

/-- The commands of the four RESERVED rows have one effect (42_commands R147). -/
theorem commandEffect_reserved {i : Instr} (h : i.isReserved = true) (s : State) : commandEffect i s = raise .op s := by
  cases i <;> simp_all [Instr.isReserved, commandEffect]

/-- Everything a command can do in a phase that accepts commands. -/
theorem commandEffect_cases (i : Instr) (s : State) :
    (i = .nop ∧ commandEffect i s = s) ∨
    (i = .init ∧ commandEffect i s = initEffect s) ∨
    (∃ c, commandEffect i s = raise c s ∧ (c = .len → s.phase = .ready)) ∨
    (∃ nb data, i = .update nb data ∧ s.phase = .ready ∧ s.tail = false ∧
      s.mlen.toNat + byteCount nb ≤ Config.maxMsgBytes ∧ commandEffect i s = absorb nb data s) ∨
    (i = .final ∧ s.phase = .ready ∧ commandEffect i s = padMessage s) := by
  cases i with
  | nop => exact .inl ⟨rfl, rfl⟩
  | init => exact .inr (.inl ⟨rfl, rfl⟩)
  | update nb data =>
    obtain ⟨-, h⟩ | ⟨hp, -, -, h⟩ | ⟨hp, ht, hl, h⟩ := updateEffect_cases nb data s
    · exact .inr (.inr (.inl ⟨.seq, h, by simp⟩))
    · exact .inr (.inr (.inl ⟨.len, h, fun _ => hp⟩))
    · exact .inr (.inr (.inr (.inl ⟨nb, data, rfl, hp, ht, hl, h⟩)))
  | final =>
    obtain ⟨-, h⟩ | ⟨hp, h⟩ := finalEffect_cases s
    · exact .inr (.inr (.inl ⟨.seq, h, by simp⟩))
    · exact .inr (.inr (.inr (.inr ⟨rfl, hp, h⟩)))
  | reservedOpLow w => exact .inr (.inr (.inl ⟨.op, rfl, by simp⟩))
  | reservedOpHigh w => exact .inr (.inr (.inl ⟨.op, rfl, by simp⟩))
  | reservedRsvOdd w => exact .inr (.inr (.inl ⟨.op, rfl, by simp⟩))
  | reservedRsvTwo w => exact .inr (.inr (.inl ⟨.op, rfl, by simp⟩))

/-- No command writes the port samples. -/
@[simp] theorem commandEffect_inputs (i : Instr) (s : State) : (commandEffect i s).inputs = s.inputs := by
  obtain ⟨-, h⟩ | ⟨-, h⟩ | ⟨c, h, -⟩ | ⟨nb, data, -, -, -, -, h⟩ | ⟨-, -, h⟩ := commandEffect_cases i s <;> rw [h]
  · simp
  · simp
  · obtain ⟨-, h⟩ | ⟨-, -, h⟩ | ⟨-, -, h⟩ := absorb_cases nb data s <;> rw [h]
  · simp

/-- No command reads the port samples (43_engine R164). -/
theorem commandEffect_withInputs (i : Instr) (s : State) (ins : List PortIn) :
    commandEffect i { s with inputs := ins } = { commandEffect i s with inputs := ins } := by
  cases i <;> try rfl
  · unfold commandEffect updateEffect absorb
    dsimp only
    repeat' split
    all_goals rfl
  · unfold commandEffect finalEffect
    dsimp only
    split <;> rfl

/-- The cause codes are not 0 (60_exceptions R181). -/
@[simp] theorem ErrCause.code_ne_zero (c : ErrCause) : c.code ≠ 0#2 := by cases c <;> decide

end Sys2Proof.Machine
end

