-- ==== Sys2Proof/Laws/Decode.lean ====
section
/-! SUPPORT. The fields of a command word laid out from its fields (30_encoding R70). -/

namespace Sys2Proof

/-- Every bit of a word laid out from its four fields. -/
theorem wordOfFields_bit (op : BitVec 4) (nb rsv : BitVec 2) (data : Word) (i : Nat) :
    (wordOfFields op nb rsv data).getLsbD i =
      if i < 32 then data.getLsbD i
      else if i < 34 then rsv.getLsbD (i - 32)
      else if i < 36 then nb.getLsbD (i - 34)
      else op.getLsbD (i - 36) := by
  have h : (wordOfFields op nb rsv data).getLsbD i = (op ++ nb ++ rsv ++ data : BitVec (4 + 2 + 2 + 32)).getLsbD i := rfl
  rw [h]
  simp only [BitVec.getLsbD_append]
  grind

@[simp] theorem opField_wordOfFields (op : BitVec 4) (nb rsv : BitVec 2) (data : Word) :
    opField (wordOfFields op nb rsv data) = op := by
  apply BitVec.eq_of_getLsbD_eq
  intro i hi
  simp only [opField, BitVec.getLsbD_extractLsb', wordOfFields_bit]
  grind

@[simp] theorem nbField_wordOfFields (op : BitVec 4) (nb rsv : BitVec 2) (data : Word) :
    nbField (wordOfFields op nb rsv data) = nb := by
  apply BitVec.eq_of_getLsbD_eq
  intro i hi
  simp only [nbField, BitVec.getLsbD_extractLsb', wordOfFields_bit]
  grind

@[simp] theorem rsvField_wordOfFields (op : BitVec 4) (nb rsv : BitVec 2) (data : Word) :
    rsvField (wordOfFields op nb rsv data) = rsv := by
  apply BitVec.eq_of_getLsbD_eq
  intro i hi
  simp only [rsvField, BitVec.getLsbD_extractLsb', wordOfFields_bit]
  grind

@[simp] theorem dataField_wordOfFields (op : BitVec 4) (nb rsv : BitVec 2) (data : Word) :
    dataField (wordOfFields op nb rsv data) = data := by
  apply BitVec.eq_of_getLsbD_eq
  intro i hi
  simp only [dataField, BitVec.getLsbD_extractLsb', wordOfFields_bit]
  grind

/-- Every word is laid out from its own four fields. -/
@[simp] theorem wordOfFields_fields (w : CmdWord) :
    wordOfFields (opField w) (nbField w) (rsvField w) (dataField w) = w := by
  apply BitVec.eq_of_getLsbD_eq
  intro i hi
  simp only [wordOfFields_bit, opField, nbField, rsvField, dataField, BitVec.getLsbD_extractLsb']
  grind

/-- Two words with the same four fields are equal. -/
theorem word_ext_fields {w w' : CmdWord} (ho : opField w = opField w') (hn : nbField w = nbField w')
    (hr : rsvField w = rsvField w') (hd : dataField w = dataField w') : w = w' := by
  rw [← wordOfFields_fields w, ← wordOfFields_fields w', ho, hn, hr, hd]

/-- A mask works field by field. -/
theorem wordOfFields_and (op op' : BitVec 4) (nb nb' rsv rsv' : BitVec 2) (data data' : Word) :
    wordOfFields op nb rsv data &&& wordOfFields op' nb' rsv' data' =
      wordOfFields (op &&& op') (nb &&& nb') (rsv &&& rsv') (data &&& data') := by
  apply BitVec.eq_of_getLsbD_eq
  intro i hi
  simp only [BitVec.getLsbD_and, wordOfFields_bit]
  grind

/-- A word of the table that masks OP and RSV only is matched by those two fields (30_encoding R76). -/
theorem inRow_iff_fields (mo po : BitVec 4) (mr pr : BitVec 2) (w : CmdWord) :
    inRow (wordOfFields mo 0 mr 0) (wordOfFields po 0 pr 0) w = true ↔ opField w &&& mo = po ∧ rsvField w &&& mr = pr := by
  rw [inRow, beq_iff_eq, ← wordOfFields_fields w, wordOfFields_and]
  constructor
  · intro h
    have ho := congrArg opField h
    have hr := congrArg rsvField h
    simpa using And.intro ho hr
  · rintro ⟨ho, hr⟩
    simp at ho hr
    simp [ho, hr]

end Sys2Proof
end

