-- ==== Sys2Proof/Laws/Engine.lean ====
section
/-! SUPPORT. What the engine can do, said once (43_engine R160 to R163). -/

namespace Sys2Proof.Machine

/-- FOLD with a second padding block to come (43_engine R163). -/
theorem foldEdge_pend2 {s : State} (h : s.pend2 = true) :
    foldEdge s =
      { s with
        H := foldBack s.H s.wv
        W := lengthBlock (lengthBits s.mlen)
        pend2 := false
        wv := foldBack s.H s.wv
        t := 0
        phase := .busy } := by
  simp [foldEdge, load, h]

/-- FOLD of the message's last block. -/
theorem foldEdge_fin {s : State} (h2 : s.pend2 = false) (h : s.fin = true) :
    foldEdge s = { s with H := foldBack s.H s.wv, phase := .done, dvalid := true } := by
  simp [foldEdge, h2, h]

/-- FOLD of a block of an open message. -/
theorem foldEdge_open {s : State} (h2 : s.pend2 = false) (h : s.fin = false) :
    foldEdge s = { s with H := foldBack s.H s.wv, phase := .ready } := by
  simp [foldEdge, h2, h]

/-- What FOLD can do. -/
theorem foldEdge_cases (s : State) :
    (s.pend2 = true ∧
      foldEdge s =
        { s with
          H := foldBack s.H s.wv
          W := lengthBlock (lengthBits s.mlen)
          pend2 := false
          wv := foldBack s.H s.wv
          t := 0
          phase := .busy }) ∨
    (s.pend2 = false ∧ s.fin = true ∧
      foldEdge s = { s with H := foldBack s.H s.wv, phase := .done, dvalid := true }) ∨
    (s.pend2 = false ∧ s.fin = false ∧ foldEdge s = { s with H := foldBack s.H s.wv, phase := .ready }) := by
  by_cases h2 : s.pend2 = true
  · exact .inl ⟨h2, foldEdge_pend2 h2⟩
  · have h2' : s.pend2 = false := by simpa using h2
    by_cases h : s.fin = true
    · exact .inr (.inl ⟨h2', h, foldEdge_fin h2' h⟩)
    · have h' : s.fin = false := by simpa using h
      exact .inr (.inr ⟨h2', h', foldEdge_open h2' h'⟩)

/-- What an engine edge can do (43_engine R160). -/
theorem engineEdge_cases (s : State) :
    (s.t.toNat < 64 ∧ engineEdge s = roundEdge s) ∨ (64 ≤ s.t.toNat ∧ engineEdge s = foldEdge s) := by
  by_cases h : s.t.toNat < 64
  · exact .inl ⟨h, by simp [engineEdge, h]⟩
  · exact .inr ⟨by omega, by simp [engineEdge, h]⟩

/-- The engine never writes the port samples. -/
@[simp] theorem engineEdge_inputs (s : State) : (engineEdge s).inputs = s.inputs := by
  obtain ⟨-, h⟩ | ⟨-, h⟩ := engineEdge_cases s <;> rw [h]
  · simp
  · obtain ⟨-, h⟩ | ⟨-, -, h⟩ | ⟨-, -, h⟩ := foldEdge_cases s <;> rw [h]

/-- The engine never reads the port samples (43_engine R164). -/
theorem engineEdge_withInputs (s : State) (ins : List PortIn) :
    engineEdge { s with inputs := ins } = { engineEdge s with inputs := ins } := by
  unfold engineEdge foldEdge
  dsimp only
  repeat' split
  all_goals rfl

/-- The window after round `t` (43_engine R162): place `t mod 16` holds the word the round used. -/
theorem windowWord_roundWindow (W : Vector Word 16) (t n : Nat) :
    windowWord (roundWindow W t) n = if n % 16 = t % 16 then roundWord W t else windowWord W n := by
  by_cases h : t < 16
  · by_cases hn : n % 16 = t % 16 <;> simp [roundWindow, roundWord, windowWord, memReadBuf, h, hn]
  · simp only [roundWindow, h, if_false, windowWord, memReadBuf, Fin.getElem_fin, Vector.getElem_set]
    grind

/-- The working variables after a round, one by one (40_functions R115). -/
theorem roundStep_get (k w : Word) (v : Vector Word 8) :
    (roundStep k w v)[0] = temp1 v k w + temp2 v ∧ (roundStep k w v)[1] = v[0] ∧ (roundStep k w v)[2] = v[1] ∧
      (roundStep k w v)[3] = v[2] ∧ (roundStep k w v)[4] = v[3] + temp1 v k w ∧ (roundStep k w v)[5] = v[4] ∧
      (roundStep k w v)[6] = v[5] ∧ (roundStep k w v)[7] = v[6] :=
  ⟨rfl, rfl, rfl, rfl, rfl, rfl, rfl, rfl⟩

/-- Fold-back word by word (43_engine R163). -/
@[simp] theorem foldBack_get (H v : Vector Word 8) (i : Nat) (hi : i < 8) : (foldBack H v)[i] = H[i] + v[i] := by
  simp [foldBack]

end Sys2Proof.Machine
end

