-- ==== Sys2Proof/Laws/PerInstr.lean ====
section
/-! SUPPORT. Per-instruction families: a statement about the syntax of a command, and one lemma for each constructor of `Instr`. -/

namespace Sys2Proof.Laws

/-- The family InOwnRow: the laid-out word of a well-formed command lies in the command's own row of the table of 30_encoding R76. -/
def InOwnRow.Statement (i : Instr) : Prop :=
  i.wellFormed = true → inRow opRows[i.row].mask opRows[i.row].pat i.layout = true

theorem InOwnRow.nop : InOwnRow.Statement .nop := fun _ => by decide

theorem InOwnRow.init : InOwnRow.Statement .init := fun _ => by decide

theorem InOwnRow.update (nb : BitVec 2) (data : Word) : InOwnRow.Statement (.update nb data) := by
  intro _
  simp only [Instr.row, opRows, Instr.layout, inRow, beq_iff_eq]
  apply BitVec.eq_of_getLsbD_eq
  intro i hi
  rw [BitVec.getLsbD_and, wordOfFields_bit]
  interval_cases i <;> simp

theorem InOwnRow.final : InOwnRow.Statement .final := fun _ => by decide

theorem InOwnRow.reservedOpLow (w : CmdWord) : InOwnRow.Statement (.reservedOpLow w) := fun h => h

theorem InOwnRow.reservedOpHigh (w : CmdWord) : InOwnRow.Statement (.reservedOpHigh w) := fun h => h

theorem InOwnRow.reservedRsvOdd (w : CmdWord) : InOwnRow.Statement (.reservedRsvOdd w) := fun h => h

theorem InOwnRow.reservedRsvTwo (w : CmdWord) : InOwnRow.Statement (.reservedRsvTwo w) := fun h => h

end Sys2Proof.Laws
end

