-- ==== Sys2Proof/Laws/Step.lean ====
section
/-! SUPPORT. What one edge and one step can do, said once (43_engine R164). Every invariant is derived from `step_cases`. -/

namespace Sys2Proof.Machine

theorem edge_rst {p : PortIn} (h : p.rst = true) (s : State) : edge p s = .next (hardReset s) := by simp [edge, h]

theorem edge_engine {p : PortIn} (h : p.rst = false) {s : State} (hb : s.phase = .busy) :
    edge p s = .next (engineEdge s) := by
  simp [edge, h, hb]

theorem edge_command {p : PortIn} (h : p.rst = false) (hv : p.cmdValid = true) {s : State} (hb : s.phase ≠ .busy) :
    edge p s = .next (commandEffect (decode p.cmdWord) s) := by
  simp [edge, h, hv, hb, exec_free]

theorem edge_idle {p : PortIn} (h : p.rst = false) (hv : p.cmdValid = false) {s : State} (hb : s.phase ≠ .busy) :
    edge p s = .next s := by
  simp [edge, h, hv, hb]

/-- Everything one edge can do (43_engine R164). -/
theorem edge_cases (p : PortIn) (s : State) :
    (p.rst = true ∧ edge p s = .next (hardReset s)) ∨
    (p.rst = false ∧ s.phase = .busy ∧ edge p s = .next (engineEdge s)) ∨
    (p.rst = false ∧ s.phase ≠ .busy ∧ p.cmdValid = true ∧ edge p s = .next (commandEffect (decode p.cmdWord) s)) ∨
    (p.rst = false ∧ s.phase ≠ .busy ∧ p.cmdValid = false ∧ edge p s = .next s) := by
  cases hr : p.rst with
  | true => exact .inl ⟨rfl, edge_rst hr s⟩
  | false =>
    by_cases hb : s.phase = .busy
    · exact .inr (.inl ⟨rfl, hb, edge_engine hr hb⟩)
    · cases hv : p.cmdValid with
      | true => exact .inr (.inr (.inl ⟨rfl, hb, rfl, edge_command hr hv hb⟩))
      | false => exact .inr (.inr (.inr ⟨rfl, hb, rfl, edge_idle hr hv hb⟩))

/-- What `nextRegisters` is: the registers that the edge goes on with. -/
theorem nextRegisters_of_edge {p : PortIn} {r : Registers} {s : State} (h : edge p { toRegisters := r, inputs := [] } = .next s) :
    nextRegisters p r = s.toRegisters := by
  simp [nextRegisters, h]

/-- A step is an edge with the next sample of the ports. -/
theorem step_eq_edge (s : State) : step s = edge (nextInput s) (popInput s) := rfl

/-- Everything one step can do (43_engine R164). -/
theorem step_cases {s s' : State} (h : step s = .next s') :
    ((nextInput s).rst = true ∧ s' = hardReset (popInput s)) ∨
    ((nextInput s).rst = false ∧ s.phase = .busy ∧ s' = engineEdge (popInput s)) ∨
    ((nextInput s).rst = false ∧ s.phase ≠ .busy ∧ (nextInput s).cmdValid = true ∧
      s' = commandEffect (decode (nextInput s).cmdWord) (popInput s)) ∨
    ((nextInput s).rst = false ∧ s.phase ≠ .busy ∧ (nextInput s).cmdValid = false ∧ s' = popInput s) := by
  rw [step_eq_edge] at h
  obtain ⟨hr, he⟩ | ⟨hr, hb, he⟩ | ⟨hr, hb, hv, he⟩ | ⟨hr, hb, hv, he⟩ := edge_cases (nextInput s) (popInput s) <;>
    rw [he] at h <;> simp only [Host.Outcome.next.injEq] at h
  · exact .inl ⟨hr, h.symm⟩
  · exact .inr (.inl ⟨hr, hb, h.symm⟩)
  · exact .inr (.inr (.inl ⟨hr, hb, hv, h.symm⟩))
  · exact .inr (.inr (.inr ⟨hr, hb, hv, h.symm⟩))

end Sys2Proof.Machine
end

