-- ==== Sys2Proof/Tests/Slice0.lean ====
section
/-! SUPPORT. The model's own tests. Every expected value comes from the spec: 30_encoding, the worked examples of the rules, and the
tables of 95_test_vectors. The `witness_` theorems show, for each obligation with hypotheses, concrete inputs that meet them. -/

namespace Sys2Proof.Tests

open Sys2Proof.Machine

/-- The state a result goes on from, if it goes on. -/
def nextOf (r : Result) : Option State :=
  match r with
  | .next s => some s
  | .fault _ => none
  | .refused _ => none

/-- The status word after accepting the command word `w`. -/
def statusAfter (w : CmdWord) (s : State) : Option (BitVec 16) := (nextOf (exec (decode w) s)).map statusOut

/-- After reset and INIT (95_test_vectors section 7). -/
def ready : State := { State.reset with H := h0rom, phase := .ready }

/-- After INIT and UPDATE.3 0x61626300 (section 7). -/
def readyTail : State := { ready with W := State.reset.W.set 0 0x61626300, bcnt := 3, mlen := 3, tail := true }

/-- READY with `bcnt = 60` after 15 UPDATE.4 (section 7). -/
def ready60 : State := { ready with bcnt := 60, mlen := 60 }

/-- DONE after a message of 3 bytes, with `H` not that of a digest. -/
def done : State := { ready with mlen := 3, tail := true, fin := true, phase := .done, dvalid := true }

/-- ERROR (section 7, program P7a): `mlen = 2^61 - 4`, `bcnt = 60`. -/
def error : State :=
  { ready with mlen := 0x1FFFFFFFFFFFFFFC, bcnt := 60, errLen := true, firstErr := 3, phase := .error }

/-- READY after `2^61 - 8` bytes, and after `2^61 - 4`, where 3 more bytes are legal and 4 are not (R184). -/
def nearEnd : State := { ready with mlen := 0x1FFFFFFFFFFFFFF8, bcnt := 56 }
def atEnd : State := { ready with mlen := 0x1FFFFFFFFFFFFFFC, bcnt := 60 }

/-- BUSY at the LOAD edge of a one-block message (P1), and with the round counter at `n`. -/
def busy : State :=
  { ready with W := State.reset.W.set 0 0x80000000, wv := h0rom, fin := true, phase := .busy }
def busyAt (n : Nat) : State := { busy with t := BitVec.ofNat 7 n }

/-- The invariants of R35 hold of READY, BUSY, DONE and ERROR states of real runs. -/
theorem ready_inv : ready.Inv := by constructor <;> decide
theorem ready60_inv : ready60.Inv := by constructor <;> decide
theorem readyTail_inv : readyTail.Inv := by constructor <;> decide
theorem busy_inv : (busyAt 64).Inv := by constructor <;> decide
theorem error_inv : error.Inv := by constructor <;> decide

/-! ## WellFormed: each check refuses an ill-formed term -/

theorem test_wf_opLow : (Instr.reservedOpLow 0x8000000000#40).wellFormed = false := by decide
theorem test_wf_opHigh : (Instr.reservedOpHigh 0x4000000000#40).wellFormed = false := by decide
theorem test_wf_rsvOdd : (Instr.reservedRsvOdd 0x2200000000#40).wellFormed = false := by decide
theorem test_wf_rsvTwo : (Instr.reservedRsvTwo 0x2300000000#40).wellFormed = false := by decide
theorem test_wf_accepts : (Instr.update 0b01#2 0xABCD0000#32).wellFormed = true ∧
    (Instr.reservedOpLow 0x4000000000#40).wellFormed = true := by decide

/-! ## Decoding: words written out bit by bit, OP NB RSV DATA (30_encoding R70, 95_test_vectors section 6) -/

theorem test_decode_nop : decode 0b0000_11_00_11111111111111111111111111111111#40 = .nop := by decide
theorem test_decode_init : decode 0b0001_00_00_00000000000000000000000000000000#40 = .init := by decide
theorem test_decode_update :
    decode 0b0010_10_00_01100001_01100010_01100011_11111111#40 = .update 0b10#2 0x616263FF#32 := by decide
theorem test_decode_update1 : decode 0x20AB000000#40 = .update 0b00#2 0xAB000000#32 := by decide
theorem test_decode_final : decode 0b0011_00_00_00010010001101000101011001111000#40 = .final := by decide
theorem test_decode_opLow :
    decode 0b0100_00_00_00000000000000000000000000000000#40 = .reservedOpLow 0x4000000000#40 := by decide
theorem test_decode_opHigh :
    decode 0b1111_00_00_00000000000000000000000000000000#40 = .reservedOpHigh 0xF000000000#40 ∧
    decode 0x8000000000#40 = .reservedOpHigh 0x8000000000#40 := by decide
theorem test_decode_rsvOdd :
    decode 0b0001_00_01_00000000000000000000000000000000#40 = .reservedRsvOdd 0x1100000000#40 ∧
    decode 0x7FFFFFFFFF#40 = .reservedRsvOdd 0x7FFFFFFFFF#40 := by decide
theorem test_decode_rsvTwo :
    decode 0b0000_00_10_00000000000000000000000000000000#40 = .reservedRsvTwo 0x0200000000#40 := by decide

/-- The canonical words of R80. -/
theorem test_encode : encode (.update 0b01#2 0xBBBB1234#32) = 0x24BBBB0000#40 ∧ encode .final = 0x3000000000#40 := by decide

/-- The table's numbering: one word of 40 bits; a shorter row has zeros above it, a longer word is no command. -/
theorem test_tableWord : decodeTableWord 40 0x2C61626364 = some (.update 0b11#2 0x61626364#32) ∧
    decodeTableWord 32 0x61626364 = some .nop ∧ decodeTableWord 48 0 = none := by decide

/-! ## One step of each command (95_test_vectors section 7) -/

/-- The first step after reset runs the offered word. -/
theorem test_step_init : (nextOf (step (State.reset.withFetchWord 40 0x1000000000))).map statusOut = some 0x0001#16 := by decide
theorem test_step_reserved :
    (nextOf (step (State.reset.withFetchWord 40 0x4000000000))).map statusOut = some 0x0120#16 := by decide
theorem test_nop : statusAfter 0x0000000000#40 error = some 0x0384#16 ∧ statusAfter 0x0CFFFFFFFF#40 done = some 0x0C13#16 := by
  decide
theorem test_init : statusAfter 0x1000000000#40 error = some 0x0001#16 ∧ statusAfter 0x1000000000#40 done = some 0x0001#16 := by
  decide
theorem test_update_phases :
    [State.reset, ready, readyTail, ready60, done, error].map (statusAfter 0x2C61626364#40) =
      [some 0x0240#16, some 0x0001#16, some 0x0641#16, some 0x000A#16, some 0x0E53#16, some 0x03C4#16] := by decide
/-- The example of R143, and the last word of R184: 3 bytes fit, 4 do not. -/
theorem test_update_effect :
    (nextOf (exec (.update 0b10#2 0x61626300#32) ready)).map (fun s => (s.W[0], s.mlen, s.bcnt, s.tail)) =
      some (0x61626300#32, 3#61, 3#6, true) ∧
    statusAfter 0x2861626300#40 atEnd = some 0x0401#16 ∧ statusAfter 0x2C61626364#40 atEnd = some 0x0384#16 := by decide
theorem test_final_phases :
    [State.reset, ready, readyTail, ready60, done, error].map (statusAfter 0x3000000000#40) =
      [some 0x0240#16, some 0x080A#16, some 0x0C0A#16, some 0x080A#16, some 0x0E53#16, some 0x03C4#16] := by decide
/-- The example of R145. -/
theorem test_final_effect : (nextOf (exec .final readyTail)).map (fun s => (s.W[0], s.W[1], s.W[15], s.pend2, s.bcnt)) =
    some (0x61626380#32, 0#32, 0x18#32, false, 0#6) := by decide
theorem test_reserved_opLow :
    [State.reset, ready, readyTail, ready60, done, error].map (statusAfter 0x4000000000#40) =
      [some 0x0120#16, some 0x0121#16, some 0x0521#16, some 0x0121#16, some 0x0D33#16, some 0x03A4#16] := by decide
theorem test_reserved_rsvOdd :
    [State.reset, ready, readyTail, ready60, done, error].map (statusAfter 0x1100000000#40) =
      [some 0x0120#16, some 0x0121#16, some 0x0521#16, some 0x0121#16, some 0x0D33#16, some 0x03A4#16] := by decide
theorem test_reserved_others : statusAfter 0xF000000000#40 ready = some 0x0121#16 ∧ statusAfter 0x2200000000#40 ready = some 0x0121#16 := by
  decide

/-! ## Engine and outputs -/

/-- The first ROUND of "abc" (43_engine R162). -/
theorem test_round : (roundEdge { busy with W := State.reset.W.set 0 0x61626380 }).wv =
    #v[0x5d6aebcd, 0x6a09e667, 0xbb67ae85, 0x3c6ef372, 0xfa2a4622, 0x510e527f, 0x9b05688c, 0x1f83d9ab] := by decide
/-- Edge 80 of P3: the second padding block of 448 bits. -/
theorem test_fold : (foldEdge { busyAt 64 with pend2 := true, mlen := 56 }).W = State.reset.W.set 15 0x000001c0 := by decide
/-- Reset during BUSY (95_test_vectors section 8.2); a command offered in BUSY waits (8.1). -/
theorem test_reset : nextOf (step { busyAt 10 with inputs := [PortIn.reset] }) = some State.reset := by decide
theorem test_busy_holds : (nextOf (step ((busyAt 63).withFetchWord 40 0x1000000000))).map statusOut = some 0x080A#16 ∧
    cmdReadyOut false busy = false := by decide
/-- The mux and the bus of DONE (43_engine R166, R167): `H[7]`, and the top word. -/
theorem test_mux : doutOut 7 done = 0x5be0cd19#32 ∧ (digestOut done).extractLsb' 224 32 = 0x6a09e667#32 ∧ doutOut 7 ready = 0 := by
  decide

/-- 40_functions R114 and 95_test_vectors section 2: functions. -/
theorem test_functions : rotr 31 0x80000000#32 = 0x00000001#32 ∧ smallSigma0 0x12345678#32 = 0xe7fce6ee#32 ∧
    smallSigma1 0x6a09e667#32 = 0xcfe5da3c#32 ∧ ch 0xf0f0f0f0#32 0xff00ff00#32 0xcccccccc#32 = 0xfc0cfc0c#32 ∧
    maj 0xf0f0f0f0#32 0xff00ff00#32 0xcccccccc#32 = 0xfcc0fcc0#32 := by decide
/-- Assembler lines of R80 and R81; the model's choice for `RESERVED w` (log 6). -/
theorem test_assembler : assemble ["hash \"abc\" ; P2".toList] = some [0x1000000000#40, 0x2861626300#40, 0x3000000000#40] ∧
    assemble ["UPDATE.1 0xBB000001".toList] = none ∧ assemble [".word40 0x4000000000".toList] = some [0x4000000000#40] ∧
    assemble ["RESERVED 0x4000000000".toList] = none := by decide

/-! ## Witnesses: inputs that meet the hypotheses of each obligation -/

theorem witness_DecoderReadsTheFields : rsvField 0x1100000000#40 ≠ 0 ∧
    (rsvField 0x0CFFFFFFFF#40 = 0 ∧ opField 0x0CFFFFFFFF#40 = 0x0#4) ∧ (rsvField 0x1000000000#40 = 0 ∧ opField 0x1000000000#40 = 0x1#4) ∧
    (rsvField 0x28616263FF#40 = 0 ∧ opField 0x28616263FF#40 = 0x2#4) ∧ (rsvField 0x3012345678#40 = 0 ∧ opField 0x3012345678#40 = 0x3#4) ∧
    (rsvField 0x4000000000#40 = 0 ∧ 4 ≤ (opField 0x4000000000#40).toNat) := by decide
theorem witness_DecodeEncodeRoundTrip : (Instr.update 0b11#2 0xFFFFFFFF#32).wellFormed = true ∧ Instr.nop.wellFormed = true ∧
    (Instr.reservedRsvOdd 0xFFFFFFFFFF#40).wellFormed = true ∧ (Instr.reservedRsvTwo 0x0200000000#40).wellFormed = true ∧
    (Instr.reservedOpLow 0x7CFFFFFFFF#40).wellFormed = true ∧ (Instr.reservedOpHigh 0x8000000000#40).wellFormed = true := by decide
theorem witness_ReservedWordsRecordErrOp : (ready.phase ≠ .busy ∧ 4 ≤ (opField 0x4000000000#40).toNat) ∧
    (done.phase ≠ .busy ∧ rsvField 0x1100000000#40 ≠ 0) := by decide
theorem witness_ReservedRowsComplete : State.reset.phase ≠ .busy ∧ error.phase ≠ .busy := by decide
theorem witness_InitStartsAMessage : done.phase ≠ .busy := by decide
theorem witness_NoCommandWhileBusy : busy.phase = .busy ∧ (PortIn.command 0x1000000000#40).rst = false := by decide
theorem witness_EncoderEmitsCanonicalWords : (Instr.init = .nop ∨ Instr.init = .init ∨ Instr.init = .final) ∧ 3 < 4 := by decide
theorem witness_UpdateAbsorbsBytes :
    (ready.phase = .ready ∧ ready.tail = false ∧ ready.mlen.toNat + byteCount 0b10#2 ≤ 2 ^ 61 - 1 ∧ byteCount 0b10#2 < 4) ∧
    (ready60.phase = .ready ∧ ready60.tail = false ∧ ready60.mlen.toNat + byteCount 0b11#2 ≤ 2 ^ 61 - 1 ∧ byteCount 0b11#2 = 4 ∧
      ready60.bcnt = 60) ∧
    (nearEnd.phase = .ready ∧ nearEnd.tail = false ∧ nearEnd.mlen.toNat + byteCount 0b11#2 ≤ 2 ^ 61 - 1 ∧ byteCount 0b11#2 = 4 ∧
      nearEnd.bcnt ≠ 60) ∧ atEnd.mlen.toNat + byteCount 0b10#2 = 2 ^ 61 - 1 := by decide
theorem witness_IllegalCommandsRecordErrSeq : State.reset.phase = .idle ∧ done.phase = .done ∧ error.phase = .error ∧
    (readyTail.phase = .ready ∧ readyTail.tail = true) := by decide
theorem witness_LengthOverflowEntersError :
    (atEnd.phase = .ready ∧ atEnd.tail = false ∧ atEnd.mlen.toNat + byteCount 0b11#2 > 2 ^ 61 - 1) ∧ error.phase = .error ∧
    (atEnd.phase = .ready ∧ atEnd.tail = false ∧ atEnd.mlen.toNat + byteCount 0b10#2 = 2 ^ 61 - 1) := by decide
theorem witness_UpdateStoresFourBytes :
    (ready60.phase ≠ .busy ∧ ready60.phase = .ready ∧ ready60.tail = false ∧ ready60.mlen.toNat + byteCount 0b00#2 ≤ 2 ^ 61 - 1) ∧
    (readyTail.phase ≠ .busy ∧
      ¬(readyTail.phase = .ready ∧ readyTail.tail = false ∧ readyTail.mlen.toNat + byteCount 0b00#2 ≤ 2 ^ 61 - 1)) := by decide
theorem witness_FinalPadsTheBlock : ready.phase = .ready ∧ readyTail.phase = .ready ∧ { ready with bcnt := 55 }.bcnt.toNat ≤ 55 ∧
    ¬ { ready with bcnt := 56 }.bcnt.toNat ≤ 55 := by decide
theorem witness_FinalBlocksArePadding :
    ([0x61, 0x62, 0x63] : List Byte).length ≤ 2 ^ 61 - 1 ∧
    (∀ j : Fin 64, j.val < [0x61, 0x62, 0x63].length % 64 →
      bufByte readyTail.W j = ([0x61, 0x62, 0x63] : List Byte).getD (64 * ([0x61, 0x62, 0x63].length / 64) + j.val) 0) ∧
    ((List.replicate 56 (0 : Byte)).length ≤ 2 ^ 61 - 1 ∧ 56 ≤ (List.replicate 56 (0 : Byte)).length % 64 ∧
      ∀ j : Fin 64, j.val < 56 → bufByte ready.W j = (List.replicate 56 (0 : Byte)).getD j.val 0) := by decide
theorem witness_PaddedMessageIsWholeBlocks : (List.replicate 55 (0 : Byte)).length ≤ 2 ^ 61 - 1 := by decide
theorem witness_ErrorsAreCheckedInOrder :
    (error.phase ≠ .busy ∧ (decode 0x4000000000#40).isReserved = true) ∧
    (done.phase ≠ .busy ∧ decode 0x2C61626364#40 = .update 0b11#2 0x61626364#32 ∧ done.phase ≠ .ready) ∧
    (atEnd.phase ≠ .busy ∧ atEnd.phase = .ready ∧ atEnd.tail = false ∧ atEnd.mlen.toNat + byteCount 0b11#2 > 2 ^ 61 - 1) ∧
    (ready.phase = .ready ∧ decode 0x3000000000#40 = .final) ∧ busy.phase = .busy ∧ PortIn.reset.rst = true := by decide
theorem witness_ErrorsAreSticky : step error = .next error ∧ (nextInput error).rst = false ∧
    ¬(error.phase ≠ .busy ∧ (nextInput error).cmdValid = true ∧ decode (nextInput error).cmdWord = .init) ∧
    error.errLen = true ∧ error.firstErr ≠ 0 ∧ { error with errOp := true, errSeq := true }.errSeq = true := ⟨rfl, by decide⟩
theorem witness_BusyEdgeIsTheEngines : (busy.phase = .busy ∧ (nextInput busy).rst = false ∧ (busyAt 63).t.toNat < 64) ∧
    ((busyAt 64).phase = .busy ∧ (nextInput (busyAt 64)).rst = false ∧ (busyAt 64).t.toNat = 64) := by decide
theorem witness_RoundEdgeResult : (busy.phase = .busy ∧ busy.t.toNat < 64 ∧ (nextInput busy).rst = false) ∧ busy.t.toNat < 16 ∧
    ((busyAt 16).phase = .busy ∧ 16 ≤ (busyAt 16).t.toNat ∧ (busyAt 63).t.toNat < 64 ∧ (nextInput (busyAt 16)).rst = false) := by decide
theorem witness_FoldEdgeResult : ((busyAt 64).phase = .busy ∧ (busyAt 64).t.toNat = 64 ∧ (nextInput (busyAt 64)).rst = false) ∧
    { busyAt 64 with pend2 := true }.pend2 = true ∧ ((busyAt 64).pend2 = false ∧ (busyAt 64).fin = true) ∧
    ({ busyAt 64 with fin := false }.pend2 = false ∧ { busyAt 64 with fin := false }.fin = false) := by decide
theorem witness_WindowHoldsTheSchedule : busy.phase = .busy ∧ busy.t = 0 ∧ 64 ≤ 64 ∧ (48 < 64 ∧ 64 ≤ 48 + 16) ∧
    (15 < 16 ∧ 15 ≤ 15 ∧ 15 ≤ 64) := by decide
theorem witness_EngineCompressesOneBlock : busy.phase = .busy ∧ busy.t = 0 ∧ busy.wv = busy.H := by decide
theorem witness_TransactionsCompress :
    (ready60.Inv ∧ ready60.phase = .ready ∧ ready60.tail = false ∧ ready60.bcnt = 60 ∧ ready60.mlen.toNat + 4 ≤ 2 ^ 61 - 1) ∧
    (readyTail.Inv ∧ readyTail.phase = .ready ∧ readyTail.bcnt.toNat ≤ 55) ∧ ¬ ready60.bcnt.toNat ≤ 55 :=
  ⟨⟨ready60_inv, by decide⟩, ⟨readyTail_inv, by decide⟩, by decide⟩
theorem witness_StepsRunTheEngine : busy.inputs = [] := by decide
/-- A host that waits, offers a NOP, and leaves don't-care bits set (0x28616263FF, 0x3012345678). -/
theorem witness_MessageDigestIsTheHash : ([0x61, 0x62, 0x63] : List Byte).length ≤ 2 ^ 61 - 1 ∧ error.phase ≠ .busy ∧
    (commandsOf [.wait, .offer 0x1000000000#40, .offer 0x0CFFFFFFFF#40, .offer 0x28616263FF#40, .wait, .offer 0x3012345678#40]).map
      Instr.canonical = hashCommands [0x61, 0x62, 0x63] := by decide
theorem witness_BackToBackEdgeCount : ([] : List Byte).length ≤ 2 ^ 61 - 1 ∧ State.reset.phase ≠ .busy ∧
    (1 ≤ 1 ∧ 66 < 2 + (0 + 3) / 4 + 65 * nblocks 0) := by decide
theorem witness_HashCommandsCarryTheMessage : Instr.update 0b11#2 0x61626364#32 ∈ (absorbCommands [0x61, 0x62, 0x63, 0x64, 0x65]).dropLast ∧
    Instr.update 0b00#2 0x65000000#32 ∈ absorbCommands [0x61, 0x62, 0x63, 0x64, 0x65] := by decide
theorem witness_AssemblerIsCanonical : (AsmLine.update 0b00#2 0xBB000000#32).words = some [0x20BB000000#40] ∧
    (AsmLine.absorb [0x61]).words = some [0x2061000000#40] ∧
    (byteCount 0b10#2 ≤ 3 ∧ 3 < 4 ∧ byteOfWord 0x616263FF#32 3 ≠ 0) := by decide
theorem witness_AsmNotWord40 (w : CmdWord) : AsmLine.absorb [0x61] ≠ .word40 w := nofun
theorem witness_DigestBusShowsTheChainingWords : done.dvalid = true ∧ ready.dvalid = false := by decide
theorem witness_MuxSelectsADigestWord : ready.dvalid = false ∧ PortIn.idle.doutSel = 0 := by decide
theorem witness_NoDigestOutsideDone : (busyAt 64).Inv ∧ (busyAt 64).phase ≠ .done := ⟨busy_inv, by decide⟩
theorem witness_DigestStaysInDone : done.phase = .done ∧ step done = .next done ∧ (nextInput done).rst = false ∧
    ¬((nextInput done).cmdValid = true ∧ decode (nextInput done).cmdWord = .init) := ⟨rfl, rfl, by decide⟩
theorem witness_HandshakeDecidesAcceptance : ((PortIn.command 0x1000000000#40).cmdValid = true ∧ cmdReadyOut false ready = true) ∧
    (PortIn.idle.rst = (PortIn.command 0x1000000000#40).rst ∧
      ¬(PortIn.idle.cmdValid = true ∧ cmdReadyOut PortIn.idle.rst busy = true) ∧
      ¬((PortIn.command 0x1000000000#40).cmdValid = true ∧ cmdReadyOut (PortIn.command 0x1000000000#40).rst busy = true)) := by decide
theorem witness_ResetEdgeSetsEveryRegister : (nextInput { busy with inputs := [PortIn.reset] }).rst = true ∧ PortIn.reset.rst = true := by
  decide
theorem witness_OutputsAfterReset : PortIn.idle.rst = false := by decide
theorem witness_StepRunsTheOfferedCommand : ready.phase ≠ .busy ∧
    (nextInput { ready with inputs := [PortIn.command 0x3000000000#40] }).rst = false ∧
    (nextInput { ready with inputs := [PortIn.command 0x3000000000#40] }).cmdValid = true := by decide
theorem witness_RegistersFollowTheStepFunction : PortIn.reset.rst = true := by decide
theorem witness_StepKeepsTheInvariant : (busyAt 64).Inv ∧ step (busyAt 64) = .next (engineEdge (busyAt 64)) := ⟨busy_inv, rfl⟩
theorem witness_OnlyInitAndFoldWriteH : step (busyAt 64) = .next (engineEdge (busyAt 64)) ∧ (nextInput (busyAt 64)).rst = false :=
  ⟨rfl, by decide⟩
theorem witness_OnlyInitLeavesErrorAndDone : (step error = .next error ∧ (nextInput error).rst = false ∧ error.phase = .error) ∧
    (step done = .next done ∧ (nextInput done).rst = false ∧ done.phase = .done) := ⟨⟨rfl, by decide⟩, ⟨rfl, by decide⟩⟩

/-- Two READY states that differ in data, offered UPDATEs that differ in DATA. -/
def data1 : State := { ready with inputs := [PortIn.command 0x2C00000000#40] }
def data2 : State := { ready with H := Vector.replicate 8 7, W := Vector.replicate 16 1, inputs := [PortIn.command 0x2CFFFFFFFF#40] }
theorem witness_ControlIsIndependentOfData : data1.control = data2.control ∧ (nextInput data1).SameButData (nextInput data2) ∧
    (∃ t, step data1 = .next t) ∧ ∃ t, step data2 = .next t :=
  ⟨by decide, by unfold PortIn.SameButData; decide, ⟨_, rfl⟩, ⟨_, rfl⟩⟩

/-- Two READY states that differ in every byte at or above `bcnt`, in `wv` and in `t`. -/
def alike1 : State := readyTail
def alike2 : State := { readyTail with W := (Vector.replicate 16 0xFFFFFFFF).set 0 0x616263FF, wv := Vector.replicate 8 5, t := 100 }
theorem witness_AlikeStatesStayAlike : alike1.Inv ∧ alike1.Alike alike2 ∧ (∃ t, step alike1 = .next t) ∧ ∃ t, step alike2 = .next t :=
  ⟨readyTail_inv, by constructor <;> decide, ⟨_, rfl⟩, ⟨_, rfl⟩⟩
theorem witness_DontCareBytesAreUnobservable : ready.Inv ∧
    ∀ k < byteCount 0b10#2, byteOfWord 0x61626300#32 k = byteOfWord 0x616263FF#32 k := ⟨ready_inv, by decide⟩
theorem witness_InstancesAreIndependent : (∃ chip', Chip.step [done, busy] = .next chip') ∧ 1 < [done, busy].length :=
  ⟨⟨_, rfl⟩, by decide⟩
theorem witness_ScheduleSatisfiesTheRecurrence : 15 < 16 ∧ (16 ≤ 16 ∧ 16 < 64) ∧ (16 ≤ 63 ∧ 63 < 64) := by decide
theorem witness_ChAndMajBitByBit : 0 < 32 ∧ 31 < 32 := by decide
theorem witness_ConstantsAreRootsOfPrimes : (62 : Fin 64) < 63 ∧ 311 < 312 := by decide
theorem witness_RotateAndShift : (0 < 1 ∧ 1 < 32) ∧ (0 < 31 ∧ 31 < 32) := by decide
theorem witness_BufWriteIsBigEndian : (1 ≤ 4 ∧ 4 ≤ 4 ∧ 60 + 4 ≤ 64) ∧ (60 ≤ (63 : Fin 64).val ∧ (63 : Fin 64).val < 60 + 4) ∧
    ((59 : Fin 64).val < 60) := by decide
theorem witness_LengthFieldIsBigEndian : 55 ≤ 55 ∧ 56 ≤ (56 : Fin 64).val := by decide

end Sys2Proof.Tests
end

/-! PROOFS. The status word (10_state R33): which register each bit copies, and the fields that follow. -/

namespace Sys2Proof.Machine

/-- The bit positions of R33. -/
theorem statusOut_getLsbD (s : State) (i : Nat) :
    (statusOut s).getLsbD i =
      if i < 3 then s.phase.code.getLsbD i
      else if i = 3 then busyOut s
      else if i = 4 then s.dvalid
      else if i = 5 then s.errOp
      else if i = 6 then s.errSeq
      else if i = 7 then s.errLen
      else if i < 10 then s.firstErr.getLsbD (i - 8)
      else if i = 10 then s.tail
      else if i = 11 then s.fin
      else false := by
  simp only [statusOut, BitVec.getLsbD_append, BitVec.getLsbD_ofBool]
  by_cases hi : i < 12
  · interval_cases i <;> simp
  · obtain ⟨j, rfl⟩ : ∃ j, i = j + 12 := ⟨i - 12, by omega⟩
    simp

theorem statusOut_phase (s : State) : (statusOut s).extractLsb' 0 3 = s.phase.code := by
  apply BitVec.eq_of_getLsbD_eq
  intro i hi
  simp [statusOut_getLsbD, hi]

theorem statusOut_firstErr (s : State) : (statusOut s).extractLsb' 8 2 = s.firstErr := by
  apply BitVec.eq_of_getLsbD_eq
  intro i hi
  rw [BitVec.getLsbD_extractLsb', statusOut_getLsbD]
  interval_cases i <;> rfl

theorem statusOut_reserved (s : State) : (statusOut s).extractLsb' 12 4 = 0 := by
  apply BitVec.eq_of_getLsbD_eq
  intro i hi
  rw [BitVec.getLsbD_extractLsb', statusOut_getLsbD]
  interval_cases i <;> rfl

/-- Settles O37: the one-bit fields are single positions of `statusOut_getLsbD`. -/
theorem statusWordFields : Obligations.StatusWordFields :=
  ⟨fun s => ⟨statusOut_phase s, statusOut_getLsbD s 3, statusOut_getLsbD s 4, statusOut_getLsbD s 5,
      statusOut_getLsbD s 6, statusOut_getLsbD s 7, statusOut_firstErr s, statusOut_getLsbD s 10,
      statusOut_getLsbD s 11, statusOut_reserved s⟩,
    ⟨rfl, rfl, rfl, rfl, rfl⟩, by decide⟩

end Sys2Proof.Machine

/-! PROOFS. The handshake (10_state R32): when CORE is ready, and what an edge that accepts no command depends on. -/

namespace Sys2Proof.Machine

/-- `cmd_ready` is 1 outside reset and BUSY. -/
theorem cmdReadyOut_eq_true_iff (rst : Bool) (s : State) : cmdReadyOut rst s = true ↔ rst = false ∧ s.phase ≠ .busy := by
  simp [cmdReadyOut]

theorem edge_accepted {p : PortIn} {s : State} (hv : p.cmdValid = true) (hr : cmdReadyOut p.rst s = true) :
    edge p s = exec (decode p.cmdWord) s := by
  obtain ⟨hrst, hb⟩ := (cmdReadyOut_eq_true_iff p.rst s).mp hr
  rw [edge_command hrst hv hb, exec_free _ hb]

/-- An edge that accepts no command is the edge with the same `rst` at which the host offers nothing. -/
theorem edge_unaccepted {p : PortIn} {s : State} (h : ¬(p.cmdValid = true ∧ cmdReadyOut p.rst s = true)) :
    edge p s = edge { PortIn.idle with rst := p.rst } s := by
  obtain ⟨hr, he⟩ | ⟨hr, hb, he⟩ | ⟨hr, hb, hv, -⟩ | ⟨hr, hb, -, he⟩ := edge_cases p s
  · rw [he, edge_rst]
    exact hr
  · rw [he, edge_engine _ hb]
    exact hr
  · exact absurd ⟨hv, (cmdReadyOut_eq_true_iff p.rst s).mpr ⟨hr, hb⟩⟩ h
  · rw [he, edge_idle _ rfl hb]
    exact hr

/-- Settles O38: two edges that accept no command are both the edge at which nothing is offered. -/
theorem handshakeDecidesAcceptance : Obligations.HandshakeDecidesAcceptance := fun p s =>
  ⟨cmdReadyOut_eq_true_iff p.rst s, edge_accepted, fun q hrst hp hq => by
    rw [edge_unaccepted hp, edge_unaccepted hq, hrst]⟩

end Sys2Proof.Machine

/-! PROOFS. The digest outputs (43_engine R167, 20_memory R55): the words and the bytes of the digest bus. -/

namespace Sys2Proof.Machine

/-- A part of a part of a bit vector, where the outer part ends inside the inner one. -/
theorem extractLsb'_extractLsb'_le {w : Nat} (x : BitVec w) {a b c d : Nat} (h : c + d ≤ b) :
    (x.extractLsb' a b).extractLsb' c d = x.extractLsb' (a + c) d := by
  ext i hi
  have hb : c + i < b := by omega
  simp [hb, Nat.add_assoc]

theorem digestOut_invalid {s : State} (hd : s.dvalid = false) : digestOut s = 0 := by
  simp [digestOut, hd]

/-- `digest = H[0] ‖ ... ‖ H[7]`, so word `i` stands `32 * i` bits below the top of the bus. -/
theorem digestOut_word {s : State} (hd : s.dvalid = true) (i : Nat) (hi : i < 8) :
    (digestOut s).extractLsb' (224 - 32 * i) 32 = s.H[i] := by
  apply BitVec.eq_of_getLsbD_eq
  intro b hb
  simp only [digestOut, hd, if_true, BitVec.getLsbD_extractLsb', BitVec.getLsbD_append]
  interval_cases i <;> grind

/-- Byte `i` of DIGEST is byte `i` of the bus, counted from the top (R55). -/
theorem digestByte_eq_digestOut (s : State) (i : Fin 32) :
    digestByte s i = (digestOut s).extractLsb' (248 - 8 * i.val) 8 := by
  cases hd : s.dvalid
  · simp [digestByte, hd, digestOut_invalid hd]
  · have hpos : 224 - 32 * (i.val / 4) + (24 - 8 * (i.val % 4)) = 248 - 8 * i.val := by omega
    simp only [digestByte, hd, if_true]
    rw [← digestOut_word hd (i.val / 4) (by omega), byteOfWord, extractLsb'_extractLsb'_le _ (by omega), hpos]

/-- Settles O33: words and bytes are parts of the bus by position, also where it is 0. -/
theorem digestBusShowsTheChainingWords : Obligations.DigestBusShowsTheChainingWords := fun s =>
  ⟨fun hd i => digestOut_word hd i i.isLt, digestOut_invalid, digestByte_eq_digestOut s⟩

end Sys2Proof.Machine

/-! PROOFS. The length field of the padding (20_memory R57): BUF bytes 56 to 63, words 14 and 15. -/

namespace Sys2Proof.Machine

/-- Byte `j` of the length field, `Lbits[63:56]` at `j = 56` and `Lbits[7:0]` at `j = 63`. -/
theorem byteOfDouble_lengthField (v : BitVec 64) {j : Nat} (hj : 56 ≤ j) (hj' : j < 64) :
    byteOfDouble v (j - 56) = v.extractLsb' (8 * (63 - j)) 8 := by
  rw [byteOfDouble, show 56 - 8 * (j - 56) = 8 * (63 - j) by omega]

theorem bufByte_lengthBlock_lengthField (lbits : BitVec 64) {j : Fin 64} (hj : 56 ≤ j.val) :
    bufByte (lengthBlock lbits) j = lbits.extractLsb' (8 * (63 - j.val)) 8 := by
  rw [bufByte_lengthBlock, if_pos hj, byteOfDouble_lengthField lbits hj j.isLt]

/-- A block of FINAL with `k ≤ 55` message bytes has the length field of the second padding block. -/
theorem bufByte_finalBlock_lengthField (W : Vector Word 16) {k : Nat} (hk : k ≤ 55) (lbits : BitVec 64) {j : Fin 64}
    (hj : 56 ≤ j.val) : bufByte (finalBlock W k lbits) j = bufByte (lengthBlock lbits) j := by
  rw [bufByte_finalBlock, bufByte_lengthBlock, if_pos hj, finalByte, if_neg (by omega), if_neg (by omega), if_pos ⟨hj, hk⟩]

theorem finalBlock_lengthWord (W : Vector Word 16) {k : Nat} (hk : k ≤ 55) (lbits : BitVec 64) {i : Nat} (hi : 14 ≤ i)
    (hi' : i < 16) : (finalBlock W k lbits)[i] = (lengthBlock lbits)[i] := by
  have hbyte {j : Nat} (hj : 56 ≤ j) (hj' : j < 64) :
      bufByte (finalBlock W k lbits) ⟨j, hj'⟩ = bufByte (lengthBlock lbits) ⟨j, hj'⟩ :=
    bufByte_finalBlock_lengthField W hk lbits hj
  rw [word_of_bufBytes (finalBlock W k lbits), word_of_bufBytes (lengthBlock lbits), hbyte (by omega), hbyte (by omega),
    hbyte (by omega), hbyte (by omega)]

/-- Settles O58: the block of FINAL and the second padding block agree on the length field, whose two words stand in `lengthBlock`. -/
theorem lengthFieldIsBigEndian : Obligations.LengthFieldIsBigEndian := fun mlen W k hk =>
  ⟨lengthBits_toNat mlen,
    fun _ hj => ⟨(bufByte_finalBlock_lengthField W hk _ hj).trans (bufByte_lengthBlock_lengthField _ hj),
      bufByte_lengthBlock_lengthField _ hj⟩,
    finalBlock_lengthWord W hk _ (by decide) (by decide), finalBlock_lengthWord W hk _ (by decide) (by decide)⟩

end Sys2Proof.Machine

/-! PROOFS. The decoder and the mask and match table (30_encoding R75, R76): the fields OP and RSV decide the row of a word, and the
decoder gives the word the command of its row. -/

namespace Sys2Proof

/-- The place in `opRows` of the row of a word, from its OP and RSV in the order of R75. -/
def rowOfFields (op : BitVec 4) (rsv : BitVec 2) : Fin 8 :=
  if rsv ≠ 0b00#2 then if rsv = 0b10#2 then 7 else 6
  else if op = 0x0#4 then 0
  else if op = 0x1#4 then 1
  else if op = 0x2#4 then 2
  else if op = 0x3#4 then 3
  else if op < 0x8#4 then 4
  else 5

/-- The command that the row `r` of R76 gives a word, with the operands it reads from the word. -/
def rowCommand (w : CmdWord) : Fin 8 → Instr
  | 0 => .nop
  | 1 => .init
  | 2 => .update (nbField w) (dataField w)
  | 3 => .final
  | 4 => .reservedOpLow w
  | 5 => .reservedOpHigh w
  | 6 => .reservedRsvOdd w
  | 7 => .reservedRsvTwo w

@[simp] theorem row_rowCommand (w : CmdWord) (r : Fin 8) : (rowCommand w r).row = r := by
  fin_cases r <;> rfl

theorem decode_eq_rowCommand (w : CmdWord) : decode w = rowCommand w (rowOfFields (opField w) (rsvField w)) := by
  simp only [decode, rowOfFields, apply_ite (rowCommand w)]
  rfl

/-- No row of R76 masks NB or DATA, so OP and RSV alone decide whether a word lies in it. -/
theorem inRow_opRows_iff_fields (w : CmdWord) (r : Fin 8) :
    inRow opRows[r].mask opRows[r].pat w = true ↔
      opField w &&& opField opRows[r].mask = opField opRows[r].pat ∧
        rsvField w &&& rsvField opRows[r].mask = rsvField opRows[r].pat := by
  have hmask : wordOfFields (opField opRows[r].mask) 0 (rsvField opRows[r].mask) 0 = opRows[r].mask := by
    decide +revert
  have hpat : wordOfFields (opField opRows[r].pat) 0 (rsvField opRows[r].pat) 0 = opRows[r].pat := by
    decide +revert
  rw [← inRow_iff_fields, hmask, hpat]

/-- For each pair of OP and RSV exactly one row of R76 matches, the one that R75 chooses. -/
theorem fields_match_iff_rowOfFields (op : BitVec 4) (rsv : BitVec 2) (r : Fin 8) :
    (op &&& opField opRows[r].mask = opField opRows[r].pat ∧ rsv &&& rsvField opRows[r].mask = rsvField opRows[r].pat) ↔
      rowOfFields op rsv = r := by
  decide +revert

/-- The rows of R76 do not overlap and cover every word. -/
theorem inRow_opRows_iff (w : CmdWord) (r : Fin 8) :
    inRow opRows[r].mask opRows[r].pat w = true ↔ rowOfFields (opField w) (rsvField w) = r := by
  rw [inRow_opRows_iff_fields, fields_match_iff_rowOfFields]

/-- Settles O3: the rows and the decoder agree, because both are decided by `rowOfFields`. -/
theorem eachWordMatchesExactlyItsRow : Obligations.EachWordMatchesExactlyItsRow := fun w r => by
  rw [inRow_opRows_iff, decode_eq_rowCommand, row_rowCommand]

theorem isReserved_rowCommand_iff (w : CmdWord) (r : Fin 8) : (rowCommand w r).isReserved = true ↔ 4 ≤ r := by
  fin_cases r <;> simp [rowCommand, Instr.isReserved]

theorem le_rowOfFields_iff (op : BitVec 4) (rsv : BitVec 2) : 4 ≤ rowOfFields op rsv ↔ rsv ≠ 0 ∨ 4 ≤ op.toNat := by
  decide +revert

/-- The reserved words of R77. -/
theorem isReserved_decode_iff (w : CmdWord) : (decode w).isReserved = true ↔ rsvField w ≠ 0 ∨ 4 ≤ (opField w).toNat := by
  rw [decode_eq_rowCommand, isReserved_rowCommand_iff, le_rowOfFields_iff]

/-- Settles O2: each OP below 4 chooses its row, and the reserved words are those of `isReserved_decode_iff`. -/
theorem decoderReadsTheFields : Obligations.DecoderReadsTheFields := fun w =>
  ⟨fun hrsv => (isReserved_decode_iff w).mpr (.inl hrsv), fun hrsv =>
    have hrow (op : BitVec 4) (hop : opField w = op) : decode w = rowCommand w (rowOfFields op 0) := by
      rw [decode_eq_rowCommand, hop, hrsv]
    ⟨hrow 0x0#4, hrow 0x1#4, fun hop => ⟨hrow 0x2#4 hop, rfl⟩, hrow 0x3#4,
      fun hop => (isReserved_decode_iff w).mpr (.inr hop)⟩⟩

end Sys2Proof

/-! PROOFS. The encoder (30_encoding R79): a well-formed command is what its laid-out word decodes to, and the don't-care fields of
a canonical word are 0. -/

namespace Sys2Proof

open Machine

/-- The raw word of a RESERVED term is its laid-out word, and the other commands are laid out in their rows. -/
theorem wellFormed_iff_inRow_layout (i : Instr) :
    i.wellFormed = true ↔ inRow opRows[i.row].mask opRows[i.row].pat i.layout = true := by
  cases i with
  | nop | init | update | final =>
    refine iff_of_true rfl ((inRow_opRows_iff _ _).mpr ?_)
    simp [Instr.layout, Instr.row, rowOfFields]
  | reservedOpLow | reservedOpHigh | reservedRsvOdd | reservedRsvTwo => rfl

/-- A command's own row reads back from the laid-out word the operands that were laid out. -/
@[simp] theorem rowCommand_layout (i : Instr) : rowCommand i.layout i.row = i := by
  cases i <;> simp [Instr.layout, Instr.row, rowCommand]

theorem decode_layout {i : Instr} (h : i.wellFormed = true) : decode i.layout = i := by
  have hrow := (inRow_opRows_iff i.layout i.row).mp ((wellFormed_iff_inRow_layout i).mp h)
  rw [decode_eq_rowCommand, hrow, rowCommand_layout]

theorem wellFormed_canonical (i : Instr) : i.canonical.wellFormed = i.wellFormed := by
  cases i <;> rfl

theorem decode_encode {i : Instr} (h : i.wellFormed = true) : decode (encode i) = i.canonical :=
  decode_layout ((wellFormed_canonical i).trans h)

/-- The raw word of a RESERVED command stands in the row that gave the command. -/
theorem wellFormed_rowCommand {w : CmdWord} : ∀ {r : Fin 8}, inRow opRows[r].mask opRows[r].pat w = true →
    (rowCommand w r).wellFormed = true
  | 0, _ | 1, _ | 2, _ | 3, _ => rfl
  | 4, h | 5, h | 6, h | 7, h => h

theorem wellFormed_decode (w : CmdWord) : (decode w).wellFormed = true := by
  rw [decode_eq_rowCommand]
  exact wellFormed_rowCommand ((inRow_opRows_iff w _).mpr rfl)

/-- The bits of the first `n` bytes of DATA are the top ones. -/
theorem keepBytes_getLsbD (nb : BitVec 2) (data : Word) (i : Nat) :
    (keepBytes nb data).getLsbD i = (decide (24 - 8 * nb.toNat ≤ i) && data.getLsbD i) := by
  by_cases hi : i < 32
  · have hshift : i - (24 - 8 * nb.toNat) < 32 := by omega
    simp only [keepBytes, BitVec.getLsbD_and, BitVec.getLsbD_shiftLeft, BitVec.getLsbD_allOnes, hi, hshift, decide_true,
      Bool.true_and, Bool.and_true, ← decide_not, Nat.not_lt]
    exact Bool.and_comm _ _
  · rw [BitVec.getLsbD_of_ge _ _ (by omega), BitVec.getLsbD_of_ge _ _ (by omega), Bool.and_false]

/-- The don't-care bytes of DATA become 0x00, the message bytes stay (R74, R79). -/
theorem byteOfWord_keepBytes (nb : BitVec 2) (data : Word) {k : Nat} (hk : k < 4) :
    byteOfWord (keepBytes nb data) k = if k < byteCount nb then byteOfWord data k else 0 := by
  have hnb := nb.isLt
  apply BitVec.eq_of_getLsbD_eq
  intro b hb
  have hkept : 24 - 8 * nb.toNat ≤ 24 - 8 * k + b ↔ k < byteCount nb := by simp only [byteCount]; omega
  by_cases hkn : k < byteCount nb <;> simp [byteOfWord, keepBytes_getLsbD, hkept, hkn]

theorem dataField_encode_update (nb : BitVec 2) (data : Word) : dataField (encode (.update nb data)) = keepBytes nb data :=
  dataField_wordOfFields _ _ _ _

/-- Settles O5: the fields are those of the laid-out canonical form, and every decoded command is well-formed. -/
theorem encoderEmitsCanonicalWords : Obligations.EncoderEmitsCanonicalWords := by
  refine ⟨?_, fun nb data => ⟨nbField_wordOfFields _ _ _ _, rsvField_wordOfFields _ _ _ _, fun k hk => ?_⟩,
    fun w => ⟨wellFormed_decode w, decode_encode (wellFormed_decode w)⟩⟩
  · rintro i (rfl | rfl | rfl) <;> decide
  · rw [dataField_encode_update, byteOfWord_keepBytes nb data hk]

end Sys2Proof

/-! PROOFS. Padding (40_functions R112): the number of zero bytes, the number of blocks, the size of the padded message. -/

namespace Sys2Proof.Machine

theorem padZeros_cast (L : Nat) : (padZeros L : Int) = (55 - (L : Int)) % 64 :=
  Int.toNat_of_nonneg (Int.emod_nonneg _ (by decide))

theorem padZeros_lt (L : Nat) : padZeros L < 64 := by
  have hcast := padZeros_cast L
  omega

/-- The two cases of `P` (R112), by how far the message and its 0x80 byte reach into the last block. -/
theorem padZeros_eq_ite (L : Nat) : padZeros L = if (L + 1) % 64 > 56 then 120 - (L + 1) % 64 else 56 - (L + 1) % 64 := by
  have hcast := padZeros_cast L
  split <;> omega

/-- Message, 0x80 byte, zero bytes and length field fill whole blocks. -/
theorem add_padZeros_eq_nblocks (L : Nat) : L + 1 + padZeros L + 8 = 64 * nblocks L := by
  have hcast := padZeros_cast L
  simp only [nblocks, Config.blockBytes]
  omega

theorem nblocks_eq (L : Nat) : nblocks L = (L + 8) / 64 + 1 := by
  have hsize := add_padZeros_eq_nblocks L
  have hlt := padZeros_lt L
  omega

@[simp] theorem length_be64 (v : BitVec 64) : (be64 v).length = 8 := by
  simp [be64]

@[simp] theorem length_pad (m : List Byte) : (pad m).length = 64 * nblocks m.length := by
  rw [← add_padZeros_eq_nblocks]
  simp only [pad, List.length_append, List.length_singleton, List.length_replicate, length_be64]

/-- Settles O17: the size is the sum of the four parts, and `P` is pinned by its residue and its bound. -/
theorem paddedMessageIsWholeBlocks : Obligations.PaddedMessageIsWholeBlocks :=
  ⟨fun m _ => ⟨rfl, length_pad m⟩,
    fun L => ⟨padZeros_cast L, nblocks_eq L, Nat.le_add_left _ _, Nat.add_le_add_right (Nat.le_of_lt_succ (padZeros_lt L)) 9,
      padZeros_eq_ite L⟩,
    by decide⟩

end Sys2Proof.Machine

/-! PROOFS. The message schedule (40_functions R114): the loaded words are those of the block, and every later word obeys the
recurrence. -/

namespace Sys2Proof.Machine

/-- Extending a schedule keeps the words it has. -/
theorem extendSchedule_getD_of_lt (n : Nat) (ws : List Word) {t : Nat} (ht : t < ws.length) :
    (extendSchedule n ws).getD t 0 = ws.getD t 0 := by
  induction n generalizing ws with
  | zero => rfl
  | succ n ih =>
    rw [extendSchedule, ih _ (by simp; omega), List.getD_append _ _ _ _ ht]

/-- Every word that `extendSchedule` adds to at least 16 words obeys the recurrence within the finished schedule. -/
theorem extendSchedule_getD_of_ge (n : Nat) (ws : List Word) (hlen : 16 ≤ ws.length) {t : Nat} (ht : ws.length ≤ t)
    (htn : t < ws.length + n) :
    (extendSchedule n ws).getD t 0 =
      expandWord ((extendSchedule n ws).getD (t - 2) 0) ((extendSchedule n ws).getD (t - 7) 0)
        ((extendSchedule n ws).getD (t - 15) 0) ((extendSchedule n ws).getD (t - 16) 0) := by
  induction n generalizing ws with
  | zero => omega
  | succ n ih =>
    obtain rfl | hlt := Nat.eq_or_lt_of_le ht
    · have hkept (k : Nat) (hk : 0 < k) : (extendSchedule (n + 1) ws).getD (ws.length - k) 0 = ws.getD (ws.length - k) 0 :=
        extendSchedule_getD_of_lt (n + 1) ws (by omega)
      rw [hkept 2 (by decide), hkept 7 (by decide), hkept 15 (by decide), hkept 16 (by decide), extendSchedule,
        extendSchedule_getD_of_lt n _ (by simp), List.getD_append_right _ _ _ _ le_rfl, Nat.sub_self, List.getD_cons_zero]
    · exact ih _ (by simp; omega) (by simpa using hlt) (by simp; omega)

/-- The first 16 schedule words are the words of the block. -/
theorem schedWord_of_lt (M : Vector Word 16) {t : Nat} (ht : t < 16) : schedWord M t = M[t] := by
  rw [schedWord, schedule, extendSchedule_getD_of_lt _ _ (by simpa using ht)]
  simp [ht]

/-- The recurrence of R114. -/
theorem schedWord_of_ge (M : Vector Word 16) {t : Nat} (ht : 16 ≤ t) (ht' : t < 64) :
    schedWord M t =
      expandWord (schedWord M (t - 2)) (schedWord M (t - 7)) (schedWord M (t - 15)) (schedWord M (t - 16)) :=
  extendSchedule_getD_of_ge 48 M.toList (by simp) (by simpa using ht) (by simpa using ht')

/-- The first two derived words come from words of the block alone. -/
theorem schedWord_of_block (M : Vector Word 16) {t : Nat} (ht : 16 ≤ t) (ht' : t < 18) :
    schedWord M t = expandWord M[t - 2] M[t - 7] M[t - 15] M[t - 16] := by
  rw [schedWord_of_ge M ht (by omega), schedWord_of_lt, schedWord_of_lt, schedWord_of_lt, schedWord_of_lt]

theorem expandWord_zero : expandWord 0 0 0 0 = 0 := by decide

theorem schedWord_zeroBlock {t : Nat} (ht : t < 64) : schedWord (Vector.replicate 16 0) t = 0 := by
  induction t using Nat.strong_induction_on with
  | _ t ih =>
    by_cases hlt : t < 16
    · rw [schedWord_of_lt _ hlt, Vector.getElem_replicate]
    · rw [schedWord_of_ge _ (by omega) ht, ih _ (by omega) (by omega), ih _ (by omega) (by omega),
        ih _ (by omega) (by omega), ih _ (by omega) (by omega), expandWord_zero]

/-- Settles O25: the all-zero block by strong induction on the recurrence, the example by `schedWord_of_block`. -/
theorem scheduleSatisfiesTheRecurrence : Obligations.ScheduleSatisfiesTheRecurrence := by
  refine ⟨fun M _ => schedWord_of_lt M, fun M _ => schedWord_of_ge M, fun _ => schedWord_zeroBlock, ?_⟩
  rintro _ rfl
  exact ⟨(schedWord_of_block _ (by decide) (by decide)).trans (by decide),
    (schedWord_of_block _ (by decide) (by decide)).trans (by decide)⟩

end Sys2Proof.Machine

/-! PROOFS. The mixing functions of a round (40_functions R104 to R109): `Ch` selects, `Maj` counts, and the sigma functions at the
words the rules name. -/

namespace Sys2Proof.Machine

theorem ch_getLsbD (x y z : Word) {i : Nat} (hi : i < 32) :
    (ch x y z).getLsbD i = if x.getLsbD i then y.getLsbD i else z.getLsbD i := by
  simp only [ch, BitVec.getLsbD_xor, BitVec.getLsbD_and, BitVec.getLsbD_not, hi, decide_true]
  cases x.getLsbD i <;> simp

theorem maj_getLsbD (x y z : Word) (i : Nat) :
    (maj x y z).getLsbD i = decide (2 ≤ (x.getLsbD i).toNat + (y.getLsbD i).toNat + (z.getLsbD i).toNat) := by
  simp only [maj, BitVec.getLsbD_xor, BitVec.getLsbD_and]
  cases x.getLsbD i <;> cases y.getLsbD i <;> cases z.getLsbD i <;> rfl

theorem ch_allOnes (y z : Word) : ch (BitVec.allOnes 32) y z = y := by
  apply BitVec.eq_of_getLsbD_eq
  intro i hi
  rw [ch_getLsbD _ _ _ hi, BitVec.getLsbD_allOnes, if_pos (decide_eq_true hi)]

theorem ch_zero (y z : Word) : ch 0 y z = z := by
  apply BitVec.eq_of_getLsbD_eq
  intro i hi
  rw [ch_getLsbD _ _ _ hi, if_neg (by simp)]

/-- Two equal bits are the majority. -/
theorem maj_self (x z : Word) : maj x x z = x := by
  rw [maj, BitVec.and_self, BitVec.xor_assoc, BitVec.xor_self, BitVec.xor_zero]

/-- A 0 and a 1 leave the majority to the third bit. -/
theorem maj_zero_allOnes (z : Word) : maj 0#32 (BitVec.allOnes 32) z = z := by
  rw [maj, BitVec.zero_and, BitVec.zero_and, BitVec.allOnes_and, BitVec.zero_xor, BitVec.zero_xor]

/-- Settles O53: the corner cases are the bit lemmas at constant words. -/
theorem chAndMajBitByBit : Obligations.ChAndMajBitByBit :=
  ⟨fun x y z i hi => ⟨ch_getLsbD x y z hi, maj_getLsbD x y z i⟩, fun y z => ⟨ch_allOnes y z, ch_zero y z⟩,
    fun x z => ⟨maj_self x z, maj_zero_allOnes z⟩, by decide, by decide⟩

/-- Settles O55: the equations are the definitions, and the corner cases and examples are closed facts. -/
theorem sigmaFunctions : Obligations.SigmaFunctions :=
  ⟨fun _ => ⟨rfl, rfl, rfl, rfl⟩, by decide, by decide, by decide⟩

end Sys2Proof.Machine

/-! PROOFS. The byte/word converter (40_functions R110, R111): words from bytes as numbers, and back. -/

namespace Sys2Proof.Machine

/-- Appending a byte below a bit vector is one step of the base-256 reading. -/
theorem toNat_append_byte {n : Nat} (x : BitVec n) (b : Byte) : (x ++ b).toNat = x.toNat * 2 ^ 8 + b.toNat := by
  rw [BitVec.toNat_append, ← Nat.shiftLeft_add_eq_or_of_lt b.isLt, Nat.shiftLeft_eq]

theorem be32_toNat (b0 b1 b2 b3 : Byte) :
    (be32 b0 b1 b2 b3).toNat = b0.toNat * 2 ^ 24 + b1.toNat * 2 ^ 16 + b2.toNat * 2 ^ 8 + b3.toNat := by
  simp only [be32, toNat_append_byte]
  omega

@[simp] theorem unbe32_be32 (b0 b1 b2 b3 : Byte) : unbe32 (be32 b0 b1 b2 b3) = [b0, b1, b2, b3] := by
  simp [unbe32]

/-- Settles O59: the two directions of the converter are inverse, and block words are read with it. -/
theorem converterIsBigEndian : Obligations.ConverterIsBigEndian :=
  ⟨fun b0 b1 b2 b3 => ⟨be32_toNat b0 b1 b2 b3, unbe32_be32 b0 b1 b2 b3⟩, fun _ => rfl,
    fun B i => wordsOfBytes_get B i i.isLt, by decide, by decide⟩

end Sys2Proof.Machine

/-! PROOFS. The commands that take no part in a message (42_commands R141, R147): NOP changes nothing, RESERVED only records ERR_OP. -/

namespace Sys2Proof

/-- OP and RSV choose the row of a word laid out from its fields. -/
theorem decode_wordOfFields (op : BitVec 4) (nb rsv : BitVec 2) (data : Word) :
    decode (wordOfFields op nb rsv data) = rowCommand (wordOfFields op nb rsv data) (rowOfFields op rsv) := by
  rw [decode_eq_rowCommand, opField_wordOfFields, rsvField_wordOfFields]

end Sys2Proof

namespace Sys2Proof.Machine

/-- A command that leaves the state as it is does the same accepted or not. -/
@[simp] theorem accepted_self (s : State) : accepted s s = .next s := ite_self _

/-- NOP needs no acceptance to leave every register as it is, so BUSY is no exception. -/
theorem exec_nop (s : State) : exec .nop s = .next s := by
  rw [exec_eq_accepted, commandEffect, accepted_self]

/-- Settles O8: the row of OP 0 and RSV 0 is that of NOP, whatever NB and DATA are. -/
theorem nopChangesNothing : Obligations.NopChangesNothing :=
  ⟨exec_nop, fun nb data => decode_wordOfFields 0x0#4 nb 0 data, by decide⟩

/-- ERR_OP is the cause that sets its own flag only and stays in the phase (60_exceptions R181, R182). -/
theorem raise_op (s : State) :
    raise .op s = { s with errOp := true, firstErr := if s.firstErr = 0 then 1 else s.firstErr } := by
  apply state_ext <;> simp [ErrCause.code]

/-- A RESERVED command outside BUSY records ERR_OP and nothing else (42_commands R147). -/
theorem exec_reserved {i : Instr} (hi : i.isReserved = true) {s : State} (hs : s.phase ≠ .busy) :
    exec i s = .next { s with errOp := true, firstErr := if s.firstErr = 0 then 1 else s.firstErr } := by
  rw [exec_free i hs, commandEffect_reserved hi, raise_op]

/-- Settles O6: the words of the statement are those that decode to RESERVED. -/
theorem reservedWordsRecordErrOp : Obligations.ReservedWordsRecordErrOp :=
  have hdecode (w : CmdWord) (h : 4 ≤ (opField w).toNat ∨ rsvField w ≠ 0) : (decode w).isReserved = true :=
    (isReserved_decode_iff w).mpr h.symm
  ⟨fun w _ hs h => exec_reserved (hdecode w h) hs, by decide,
    _, exec_reserved (hdecode _ (.inl (by decide))) (by decide), by decide⟩

end Sys2Proof.Machine

/-! PROOFS. The errors (60_exceptions R181 to R185): what each cause records, which commands raise which cause, and that nothing else
writes the error registers. -/

namespace Sys2Proof.Machine

/-- ERR_SEQ sets its own flag only and stays in the phase (60_exceptions R181, R183). -/
theorem raise_seq (s : State) :
    raise .seq s = { s with errSeq := true, firstErr := if s.firstErr = 0 then 2 else s.firstErr } := by
  apply state_ext <;> simp [ErrCause.code]

/-- ERR_LEN is the one cause that leaves the phase (60_exceptions R181, R184). -/
theorem raise_len (s : State) :
    raise .len s = { s with errLen := true, firstErr := if s.firstErr = 0 then 3 else s.firstErr, phase := .error } := by
  apply state_ext <;> simp [ErrCause.code]

/-- Settles O18: one record for each cause. -/
theorem raiseRecordsTheCause : Obligations.RaiseRecordsTheCause := fun s => ⟨raise_op s, raise_seq s, raise_len s⟩

/-- The command is illegal in the current phase (60_exceptions R183). -/
def IllegalInPhase (i : Instr) (s : State) : Prop :=
  (∃ nb data, i = .update nb data ∧ (s.phase ≠ .ready ∨ s.tail = true)) ∨ (i = .final ∧ s.phase ≠ .ready)

/-- The command is an UPDATE that would pass the longest message (60_exceptions R184). -/
def PassesMaxLength (i : Instr) (s : State) : Prop :=
  ∃ nb data, i = .update nb data ∧ s.mlen.toNat + byteCount nb > Config.maxMsgBytes

/-- The four error registers have the same values in both states. -/
def SameErrors (t s : State) : Prop :=
  t.errOp = s.errOp ∧ t.errSeq = s.errSeq ∧ t.errLen = s.errLen ∧ t.firstErr = s.firstErr

theorem commandEffect_of_illegal {i : Instr} {s : State} (h : IllegalInPhase i s) : commandEffect i s = raise .seq s := by
  obtain ⟨nb, data, rfl, h⟩ | ⟨rfl, h⟩ := h
  · exact if_pos h
  · exact if_pos h

/-- The length is checked only where the phase is right. -/
theorem commandEffect_of_passesMaxLength {i : Instr} {s : State} (hlegal : ¬IllegalInPhase i s)
    (hlen : PassesMaxLength i s) : commandEffect i s = raise .len s := by
  obtain ⟨nb, data, rfl, hlen⟩ := hlen
  have hphase : ¬(s.phase ≠ .ready ∨ s.tail = true) := fun h => hlegal (.inl ⟨nb, data, rfl, h⟩)
  exact (if_neg hphase).trans (if_pos hlen)

theorem absorb_sameErrors (nb : BitVec 2) (data : Word) (s : State) : SameErrors (absorb nb data s) s := by
  obtain ⟨-, h⟩ | ⟨-, -, h⟩ | ⟨-, -, h⟩ := absorb_cases nb data s <;> rw [h] <;> exact ⟨rfl, rfl, rfl, rfl⟩

/-- A command that fails none of the three checks records no error. INIT, which clears the registers, is set apart. -/
theorem commandEffect_sameErrors {i : Instr} {s : State} (hop : i.isReserved = false) (hlegal : ¬IllegalInPhase i s)
    (hlen : ¬PassesMaxLength i s) (hinit : i ≠ .init) : SameErrors (commandEffect i s) s := by
  cases i with
  | nop => exact ⟨rfl, rfl, rfl, rfl⟩
  | init => exact absurd rfl hinit
  | update nb data =>
    obtain ⟨h, -⟩ | ⟨-, -, h, -⟩ | ⟨-, -, -, he⟩ := updateEffect_cases nb data s
    · exact absurd (.inl ⟨nb, data, rfl, h⟩) hlegal
    · exact absurd ⟨nb, data, rfl, h⟩ hlen
    · rw [commandEffect, he]
      exact absorb_sameErrors nb data s
  | final =>
    obtain ⟨h, -⟩ | ⟨-, he⟩ := finalEffect_cases s
    · exact absurd (.inr ⟨rfl, h⟩) hlegal
    · rw [commandEffect, he]
      exact ⟨rfl, rfl, rfl, rfl⟩
  | reservedOpLow _ | reservedOpHigh _ | reservedRsvOdd _ | reservedRsvTwo _ => cases hop

/-- The engine raises no error (60_exceptions R185). -/
theorem engineEdge_sameErrors (s : State) : SameErrors (engineEdge s) s := by
  obtain ⟨-, h⟩ | ⟨-, h⟩ := engineEdge_cases s <;> rw [h]
  · exact ⟨rfl, rfl, rfl, rfl⟩
  · obtain ⟨-, h⟩ | ⟨-, -, h⟩ | ⟨-, -, h⟩ := foldEdge_cases s <;> rw [h] <;> exact ⟨rfl, rfl, rfl, rfl⟩

/-- Settles O19: an accepted command has the effect of the first check it fails, the engine keeps the error registers, and a
reset edge looks at nothing else. -/
theorem errorsAreCheckedInOrder : Obligations.ErrorsAreCheckedInOrder := by
  refine ⟨fun w s hs => ?_, fun s _ => engineEdge_sameErrors s, fun p s hrst => edge_rst hrst s⟩
  simp only [exec_free (decode w) hs, Host.Outcome.next.injEq, exists_eq_left']
  exact ⟨fun hop => commandEffect_reserved hop s, fun _ => commandEffect_of_illegal,
    fun _ => commandEffect_of_passesMaxLength, commandEffect_sameErrors⟩

/-- A command that is illegal in a phase that accepts commands records ERR_SEQ and nothing else (60_exceptions R183). -/
theorem exec_illegal {i : Instr} {s : State} (hs : s.phase ≠ .busy) (h : IllegalInPhase i s) :
    exec i s = .next { s with errSeq := true, firstErr := if s.firstErr = 0 then 2 else s.firstErr } := by
  rw [exec_free i hs, commandEffect_of_illegal h, raise_seq]

/-- Settles O12: the phases of the statement accept commands, and UPDATE and FINAL are illegal in them. -/
theorem illegalCommandsRecordErrSeq : Obligations.IllegalCommandsRecordErrSeq := by
  constructor
  · intro nb data s h
    have hs : s.phase ≠ .busy := fun hb => by simp [hb] at h
    have hill : s.phase ≠ .ready ∨ s.tail = true := by
      obtain h | h | h | ⟨-, h⟩ := h <;> simp [h]
    exact exec_illegal hs (.inl ⟨nb, data, rfl, hill⟩)
  · intro s h
    have hs : s.phase ≠ .busy := fun hb => by simp [hb] at h
    have hill : s.phase ≠ .ready := fun hr => by simp [hr] at h
    exact exec_illegal hs (.inr ⟨rfl, hill⟩)

end Sys2Proof.Machine

/-! PROOFS. The output ports (10_state R31 to R34) outside reset and BUSY while no digest is valid, as in the cycle after reset
(70_reset R201). -/

namespace Sys2Proof.Machine

/-- `dout` is gated by `dvalid`, whatever word is selected (43_engine R166). -/
theorem doutOut_invalid (sel : BitVec 3) {s : State} (hd : s.dvalid = false) : doutOut sel s = 0 := by
  simp [doutOut, hd]

/-- Only `status` depends on anything more: the other ports read ready, not busy, and no digest. -/
theorem outputs_of_free_of_invalid {p : PortIn} {s : State} (hrst : p.rst = false) (hb : s.phase ≠ .busy) (hd : s.dvalid = false) :
    outputs p s =
      { cmdReady := true, dout := 0, digest := 0, digestValid := false, busy := false, status := statusOut s } := by
  have hready : cmdReadyOut p.rst s = true := (cmdReadyOut_eq_true_iff p.rst s).mpr ⟨hrst, hb⟩
  have hvalid : digestValidOut s = false := hd
  have hbusy : busyOut s = false := beq_eq_false_iff_ne.mpr hb
  rw [outputs, hready, doutOut_invalid p.doutSel hd, digestOut_invalid hd, hvalid, hbusy]

/-- `status` is a function of the registers alone, so the samples to come do not matter. -/
theorem statusOut_reset (ins : List PortIn) : statusOut { State.reset with inputs := ins } = 0x0000#16 :=
  statusWordFields.2.2

/-- Settles O40: reset leaves CORE in IDLE with `dvalid = 0`, and the status word of that state is 0. -/
theorem outputsAfterReset : Obligations.OutputsAfterReset := fun p ins hrst => by
  have hb : Registers.reset.phase ≠ .busy := by simp
  rw [outputs_of_free_of_invalid hrst hb Registers.reset_dvalid, statusOut_reset]

end Sys2Proof.Machine

/-! PROOFS. Decode and encode agree (30_encoding R75, R79), and the assembler emits canonical words only (R80). -/

namespace Sys2Proof

open Machine

/-- Settles O1: closed facts about eight words. -/
theorem specWordsDecode : Obligations.SpecWordsDecode := by
  unfold Obligations.SpecWordsDecode
  decide

/-- Settles O4: a well-formed command is read back from its laid-out word, and its canonical form is well-formed too. -/
theorem decodeEncodeRoundTrip : Obligations.DecodeEncodeRoundTrip := fun i h =>
  ⟨decode_layout h, decode_encode h, (wellFormed_canonical i).trans h⟩

/-- Don't-care bytes are cleared once and for all. -/
theorem keepBytes_keepBytes (nb : BitVec 2) (data : Word) : keepBytes nb (keepBytes nb data) = keepBytes nb data := by
  rw [keepBytes, keepBytes, BitVec.and_assoc, BitVec.and_self]

@[simp] theorem canonical_canonical (i : Instr) : i.canonical.canonical = i.canonical := by
  cases i with
  | update nb data => exact congrArg (Instr.update nb) (keepBytes_keepBytes nb data)
  | _ => rfl

/-- The word that the encoder emits is the canonical word of what it decodes to. -/
theorem encode_decode_encode {i : Instr} (h : i.wellFormed = true) : encode (decode (encode i)) = encode i := by
  rw [decode_encode h, encode, encode, canonical_canonical]

/-- DATA is canonical when its don't-care bytes are 0 already. -/
theorem keepBytes_eq_self_iff (nb : BitVec 2) (data : Word) :
    keepBytes nb data = data ↔ ∀ k < 4, byteCount nb ≤ k → byteOfWord data k = 0 := by
  constructor
  · intro h k hk hnb
    rw [← h, byteOfWord_keepBytes nb data hk, if_neg (Nat.not_lt.mpr hnb)]
  · intro h
    refine word_ext_bytes fun k hk => ?_
    rw [byteOfWord_keepBytes nb data hk]
    split
    · rfl
    · exact (h k hk (by omega)).symm

/-- The commands of a message are UPDATEs whose don't-care bytes are 0. -/
theorem canonical_of_mem_absorbCommands {m : List Byte} {i : Instr} (h : i ∈ absorbCommands m) :
    ∃ nb data, i = .update nb data ∧ i.canonical = i := by
  have hcanonical (nb : BitVec 2) (data : Word) (hz : ∀ k < 4, byteCount nb ≤ k → byteOfWord data k = 0) :
      (Instr.update nb data).canonical = .update nb data :=
    congrArg (Instr.update nb) ((keepBytes_eq_self_iff nb data).mpr hz)
  induction m using absorbCommands.induct with
  | case1 b0 b1 b2 b3 rest ih =>
    obtain rfl | h := List.mem_cons.mp h
    · exact ⟨_, _, rfl, hcanonical _ _ fun k hk hn => absurd hk (Nat.not_lt.mpr hn)⟩
    · exact ih h
  | case2 b0 b1 b2 =>
    obtain rfl := List.mem_singleton.mp h
    refine ⟨_, _, rfl, hcanonical _ _ fun k hk hn => ?_⟩
    obtain rfl : k = 3 := by simp [byteCount] at hn; omega
    simp
  | case3 b0 b1 =>
    obtain rfl := List.mem_singleton.mp h
    refine ⟨_, _, rfl, hcanonical _ _ fun k hk hn => ?_⟩
    obtain rfl | rfl : k = 2 ∨ k = 3 := by simp [byteCount] at hn; omega
    all_goals simp
  | case4 b0 =>
    obtain rfl := List.mem_singleton.mp h
    refine ⟨_, _, rfl, hcanonical _ _ fun k hk hn => ?_⟩
    obtain rfl | rfl | rfl : k = 1 ∨ k = 2 ∨ k = 3 := by simp [byteCount] at hn; omega
    all_goals simp
  | case5 => simp [absorbCommands] at h

end Sys2Proof

namespace Sys2Proof.Machine

theorem wellFormed_of_mem_absorbCommands {m : List Byte} {i : Instr} (h : i ∈ absorbCommands m) : i.wellFormed = true := by
  obtain ⟨nb, data, rfl, -⟩ := canonical_of_mem_absorbCommands h
  rfl

theorem wellFormed_of_mem_hashCommands {m : List Byte} {i : Instr} (h : i ∈ hashCommands m) : i.wellFormed = true := by
  obtain rfl | h := List.mem_cons.mp h
  · rfl
  · obtain h | h := List.mem_append.mp h
    · exact wellFormed_of_mem_absorbCommands h
    · obtain rfl := List.mem_singleton.mp h
      rfl

/-- Every word of a line other than `.word40` comes from the encoder. -/
theorem words_are_encoded {l : AsmLine} {ws : List CmdWord} (hl : l.words = some ws) (hraw : ∀ w, l ≠ .word40 w) {w : CmdWord}
    (hw : w ∈ ws) : ∃ i : Instr, i.wellFormed = true ∧ encode i = w := by
  cases l with
  | word40 w => exact absurd rfl (hraw w)
  | blank =>
    cases hl
    cases hw
  | nop | init | final =>
    cases hl
    obtain rfl := List.mem_singleton.mp hw
    exact ⟨_, rfl, rfl⟩
  | update nb data =>
    rw [AsmLine.words] at hl
    split at hl
    · cases hl
      obtain rfl := List.mem_singleton.mp hw
      exact ⟨_, rfl, rfl⟩
    · cases hl
  | absorb bytes =>
    cases hl
    obtain ⟨i, hi, he⟩ := List.mem_map.mp hw
    exact ⟨i, wellFormed_of_mem_absorbCommands hi, he⟩
  | hash bytes =>
    cases hl
    obtain ⟨i, hi, he⟩ := List.mem_map.mp hw
    exact ⟨i, wellFormed_of_mem_hashCommands hi, he⟩

/-- Settles O32: emitted words come from the encoder, and UPDATE.n is rejected where DATA is not its own `keepBytes`. -/
theorem assemblerIsCanonical : Obligations.AssemblerIsCanonical := by
  refine ⟨fun l ws hl hraw w hw => ?_, fun nb data => ?_⟩
  · obtain ⟨i, hi, rfl⟩ := words_are_encoded hl hraw hw
    exact encode_decode_encode hi
  · have hnone : (AsmLine.update nb data).words = none ↔ ¬ keepBytes nb data = data := by simp [AsmLine.words]
    rw [hnone, keepBytes_eq_self_iff]
    grind

/-! The bytes that the commands of a message carry (42_commands R144, 30_encoding R81). -/

/-- The message bytes of one UPDATE with the bytes of a list in DATA (30_encoding R74). -/
theorem dataBytes_be32 (b0 b1 b2 b3 : Byte) :
    dataBytes 0b11#2 (be32 b0 b1 b2 b3) = [b0, b1, b2, b3] ∧ dataBytes 0b10#2 (be32 b0 b1 b2 b3) = [b0, b1, b2] ∧
      dataBytes 0b01#2 (be32 b0 b1 b2 b3) = [b0, b1] ∧ dataBytes 0b00#2 (be32 b0 b1 b2 b3) = [b0] := by
  simp [dataBytes, byteCount, List.range_succ]

/-- The message bytes that a command carries: those of an UPDATE (42_commands R144). -/
def messageBytes : Instr → List Byte
  | .update nb data => dataBytes nb data
  | _ => []

theorem flatMap_messageBytes_absorbCommands (m : List Byte) : (absorbCommands m).flatMap messageBytes = m := by
  induction m using absorbCommands.induct with
  | case1 b0 b1 b2 b3 rest ih => rw [absorbCommands, List.flatMap_cons, ih, messageBytes, (dataBytes_be32 b0 b1 b2 b3).1]; rfl
  | case2 | case3 | case4 => simp [absorbCommands, messageBytes, dataBytes_be32]
  | case5 => rfl

theorem length_absorbCommands (m : List Byte) : (absorbCommands m).length = (m.length + 3) / 4 := by
  induction m using absorbCommands.induct with
  | case1 b0 b1 b2 b3 rest ih =>
    simp only [absorbCommands, List.length_cons, ih]
    omega
  | case2 | case3 | case4 | case5 => simp [absorbCommands]

/-- Only the last UPDATE of a message can be a partial word. -/
theorem full_of_mem_dropLast_absorbCommands {m : List Byte} {i : Instr} (h : i ∈ (absorbCommands m).dropLast) :
    ∃ data, i = .update 0b11#2 data := by
  induction m using absorbCommands.induct with
  | case1 b0 b1 b2 b3 rest ih =>
    rw [absorbCommands] at h
    by_cases hrest : absorbCommands rest = []
    · simp [hrest] at h
    · rw [List.dropLast_cons_of_ne_nil hrest] at h
      obtain rfl | h := List.mem_cons.mp h
      · exact ⟨_, rfl⟩
      · exact ih h
  | case2 | case3 | case4 | case5 => cases h

/-- Settles O31: each clause by the recursion of `absorbCommands`. -/
theorem hashCommandsCarryTheMessage : Obligations.HashCommandsCarryTheMessage :=
  ⟨fun m => ⟨flatMap_messageBytes_absorbCommands m, length_absorbCommands m,
    fun i => full_of_mem_dropLast_absorbCommands, fun i => canonical_of_mem_absorbCommands⟩, by decide⟩

end Sys2Proof.Machine

/-! PROOFS. The engine on one block (43_engine R160 to R165): what an edge does in each case, and 64 rounds and a FOLD as the block
compression function of 40_functions R116. -/

namespace Sys2Proof.Machine

theorem engineEdge_round {s : State} (h : s.t.toNat < 64) : engineEdge s = roundEdge s := if_pos h

theorem engineEdge_fold {s : State} (h : 64 ≤ s.t.toNat) : engineEdge s = foldEdge s := if_neg (Nat.not_lt.mpr h)

theorem step_engine {s : State} (hb : s.phase = .busy) (hrst : (nextInput s).rst = false) :
    step s = .next (engineEdge (popInput s)) :=
  edge_engine hrst hb

/-- Settles O21: `engineEdge` chooses by the round counter. -/
theorem busyEdgeIsTheEngines : Obligations.BusyEdgeIsTheEngines := fun _ hb hrst =>
  ⟨step_engine hb hrst, engineEdge_round, fun h => engineEdge_fold h.ge⟩

/-- A word of the window after round `t` (R162). -/
theorem roundWindow_get (W : Vector Word 16) (t i : Nat) (hi : i < 16) :
    (roundWindow W t)[i] = if 16 ≤ t ∧ i = t % 16 then roundWord W t else W[i] := by
  by_cases h : t < 16
  · simp [roundWindow, h, Nat.not_le.mpr h]
  · simp only [roundWindow, if_neg h, Vector.getElem_set, Nat.not_lt.mp h, true_and, eq_comm]

/-- The round counter does not wrap while it counts rounds. -/
theorem roundEdge_t_toNat {s : State} (h : s.t.toNat < 64) : (roundEdge s).t.toNat = s.t.toNat + 1 := by
  rw [roundEdge_t, BitVec.toNat_add]
  exact Nat.mod_eq_of_lt (by simp; omega)

/-- Settles O22: the step is `roundEdge`, and the statement spells its schedule word and temporaries out. -/
theorem roundEdgeResult : Obligations.RoundEdgeResult := fun s hb ht hrst =>
  ⟨roundEdge (popInput s), (step_engine hb hrst).trans (congrArg _ (engineEdge_round ht)),
    fun i hi => roundWindow_get s.W s.t.toNat i hi, roundEdge_t_toNat ht, rfl⟩

/-- Settles O23: the three cases of FOLD. -/
theorem foldEdgeResult : Obligations.FoldEdgeResult := fun s hb ht hrst => by
  have hstep : step s = .next (foldEdge (popInput s)) :=
    (step_engine hb hrst).trans (congrArg _ (engineEdge_fold ht.ge))
  refine ⟨_, hstep, fun i hi => ?_, fun h2 => ?_, fun h2 hf => ?_, fun h2 hf => ?_⟩
  · obtain ⟨-, h⟩ | ⟨-, -, h⟩ | ⟨-, -, h⟩ := foldEdge_cases (popInput s) <;> rw [h] <;> exact foldBack_get _ _ i hi
  · rw [foldEdge_pend2 (s := popInput s) h2]
    exact ⟨fun i hi => lengthBlock_zero _ i hi, rfl, rfl, rfl⟩
  · rw [foldEdge_fin (s := popInput s) h2 hf]
    rfl
  · rw [foldEdge_open (s := popInput s) h2 hf]
    rfl

/-! The engine run for a number of edges (43_engine R164). -/

/-- The engine does nothing outside BUSY. -/
theorem engineRun_free (n : Nat) {s : State} (h : s.phase ≠ .busy) : engineRun n s = s := by
  cases n with
  | zero => rfl
  | succ n => exact if_neg h

theorem engineRun_succ_of_busy (n : Nat) {s : State} (h : s.phase = .busy) :
    engineRun (n + 1) s = engineRun n (engineEdge s) := if_pos h

theorem engineRun_add (a b : Nat) (s : State) : engineRun (a + b) s = engineRun b (engineRun a s) := by
  induction a generalizing s with
  | zero => rw [Nat.zero_add, engineRun]
  | succ a ih =>
    by_cases h : s.phase = .busy
    · rw [Nat.succ_add_eq_add_succ, Nat.add_succ, engineRun_succ_of_busy _ h, engineRun_succ_of_busy _ h, ih]
    · simp only [engineRun_free _ h]

/-- One more edge of an engine that is still BUSY. -/
theorem engineRun_succ {n : Nat} {s : State} (h : (engineRun n s).phase = .busy) :
    engineRun (n + 1) s = engineEdge (engineRun n s) := by
  rw [engineRun_add, engineRun_succ_of_busy _ h, engineRun]

/-- A step without input is an engine edge in BUSY, and else changes nothing. -/
theorem step_of_inputs_nil {s : State} (h : s.inputs = []) : step s = .next (engineRun 1 s) := by
  have hnext : nextInput s = PortIn.idle := by rw [nextInput, h, List.headD_nil]
  have hpop : popInput s = s := by rw [popInput, h, List.tail_nil, ← h]
  rw [step_eq_edge, hnext, hpop]
  by_cases hb : s.phase = .busy
  · rw [edge_engine rfl hb, engineRun_succ_of_busy 0 hb, engineRun]
  · rw [edge_idle rfl rfl hb, engineRun_free 1 hb]

@[simp] theorem engineRun_inputs (n : Nat) (s : State) : (engineRun n s).inputs = s.inputs := by
  induction n generalizing s with
  | zero => rfl
  | succ n ih =>
    by_cases h : s.phase = .busy
    · rw [engineRun_succ_of_busy n h, ih, engineEdge_inputs]
    · rw [engineRun_free _ h]

/-- The host's run is the iteration of `step`. -/
theorem core_run_succ (n : Nat) {s s' : State} (h : step s = .next s') :
    Host.Core.run Sys2Proof.core (n + 1) s = Host.Core.run Sys2Proof.core n s' := by
  have hcore : Sys2Proof.core.step s = .next s' := h
  simp only [Host.Core.run, hcore]

/-- Settles O28: by induction on the number of steps. -/
theorem stepsRunTheEngine : Obligations.StepsRunTheEngine := by
  intro n
  induction n with
  | zero => exact fun s _ => rfl
  | succ n ih =>
    intro s hs
    rw [core_run_succ n (step_of_inputs_nil hs), Nat.add_comm, engineRun_add]
    exact ih _ ((engineRun_inputs 1 s).trans hs)

/-! The window invariant (43_engine R162). -/

/-- `u` is `s` after `n` rounds on the block that `s` holds: the statement of the window invariant. -/
structure AfterRounds (s : State) (n : Nat) (u : State) : Prop where
  count : u.t.toNat = n
  vars : u.wv = roundsOf s.W s.wv n
  used : ∀ j, j < n → n ≤ j + 16 → windowWord u.W j = schedWord s.W j
  unused : ∀ j, j < 16 → n ≤ j → windowWord u.W j = windowWord s.W j
  frame : u = { s with t := u.t, wv := u.wv, W := u.W }

theorem AfterRounds.phase {s u : State} {n : Nat} (h : AfterRounds s n u) : u.phase = s.phase := by rw [h.frame]

/-- The window has one place for each residue modulo 16. -/
theorem windowWord_add_16 (W : Vector Word 16) (n : Nat) : windowWord W (n + 16) = windowWord W n := by
  simp [windowWord]

theorem windowWord_of_lt (W : Vector Word 16) {i : Nat} (hi : i < 16) : windowWord W i = W[i] := by
  simp [windowWord, memReadBuf, Nat.mod_eq_of_lt hi]

/-- The word that round `n` uses is the schedule word `W_n` of R114. -/
theorem AfterRounds.roundWord {s u : State} {n : Nat} (h : AfterRounds s n u) (hn : n < 64) :
    roundWord u.W n = schedWord s.W n := by
  by_cases hlt : n < 16
  · rw [Machine.roundWord, if_pos hlt, h.unused n hlt le_rfl, windowWord_of_lt _ hlt, schedWord_of_lt _ hlt]
  · obtain ⟨m, rfl⟩ : ∃ m, n = m + 16 := ⟨n - 16, by omega⟩
    rw [Machine.roundWord, if_neg hlt, schedWord_of_ge _ (by omega) hn, windowWord_add_16, h.used _ (by omega) (by omega),
      h.used _ (by omega) (by omega), h.used _ (by omega) (by omega), h.used _ (by omega) (by omega), Nat.add_sub_cancel]

/-- A round keeps the invariant: its word takes the place of the one 16 rounds older. -/
theorem AfterRounds.roundEdge {s u : State} {n : Nat} (h : AfterRounds s n u) (hn : n < 64) :
    AfterRounds s (n + 1) (roundEdge u) := by
  have hcount := h.count
  have hword := h.roundWord hn
  constructor
  case count => rw [roundEdge_t_toNat (by omega), hcount]
  case vars => rw [roundEdge_wv, hcount, hword, h.vars, roundsOf]
  case used =>
    intro j hj hj'
    rw [roundEdge_W, hcount, windowWord_roundWindow]
    split
    · next heq =>
      obtain rfl : j = n := by omega
      exact hword
    · exact h.used j (by omega) (by omega)
  case unused =>
    intro j hj hj'
    rw [roundEdge_W, hcount, windowWord_roundWindow, if_neg (by omega), h.unused j hj (by omega)]
  case frame => rw [h.frame]; rfl

theorem afterRounds_engineRun {s : State} (hb : s.phase = .busy) (ht : s.t = 0) {n : Nat} (hn : n ≤ 64) :
    AfterRounds s n (engineRun n s) := by
  induction n with
  | zero =>
    exact ⟨by rw [engineRun, ht]; rfl, rfl, fun j hj => absurd hj (Nat.not_lt_zero j), fun _ _ _ => rfl, rfl⟩
  | succ n ih =>
    have h := ih (by omega)
    rw [engineRun_succ (h.phase.trans hb), engineEdge_round (by rw [h.count]; omega)]
    exact h.roundEdge (by omega)

/-- Settles O24: `AfterRounds` holds at `t = 0`, and each round keeps it. -/
theorem windowHoldsTheSchedule : Obligations.WindowHoldsTheSchedule := fun _ _ hb ht hn =>
  have h := afterRounds_engineRun hb ht hn
  ⟨h.count, h.vars, h.used, h.unused, h.frame⟩

/-! One block (43_engine R165): LOAD leaves `t = 0` and the chaining words in `wv`, and 65 edges later FOLD has added them up. -/

/-- What LOAD leaves (43_engine R161). -/
structure Loaded (s : State) : Prop where
  busy : s.phase = .busy
  t : s.t = 0
  wv : s.wv = s.H

/-- Until FOLD the engine is BUSY and writes `wv`, `W` and `t` only. -/
theorem Loaded.engineRun_lt {s : State} (h : Loaded s) {n : Nat} (hn : n < 65) :
    (engineRun n s).phase = .busy ∧ (engineRun n s).H = s.H ∧ (engineRun n s).mlen = s.mlen ∧
      (engineRun n s).dvalid = s.dvalid := by
  have hframe := (afterRounds_engineRun h.busy h.t (Nat.le_of_lt_succ hn)).frame
  rw [hframe]
  exact ⟨h.busy, rfl, rfl, rfl⟩

/-- Edge 65 is the FOLD of a state that differs from the loaded one in the datapath only. -/
theorem Loaded.engineRun_65 {s : State} (h : Loaded s) :
    ∃ W t, engineRun 65 s = foldEdge { s with wv := roundsOf s.W s.H Config.rounds, W := W, t := t } := by
  have h64 := afterRounds_engineRun h.busy h.t (n := 64) le_rfl
  have hvars : roundsOf s.W s.H Config.rounds = (engineRun 64 s).wv := by rw [h64.vars, h.wv]
  refine ⟨(engineRun 64 s).W, (engineRun 64 s).t, ?_⟩
  rw [engineRun_succ (h64.phase.trans h.busy), engineEdge_fold h64.count.ge, hvars]
  exact congrArg foldEdge h64.frame

/-- A block with a second padding block to come. -/
theorem Loaded.engineRun_65_pend2 {s : State} (h : Loaded s) (h2 : s.pend2 = true) :
    engineRun 65 s = load (compress s.H s.W)
      { s with H := compress s.H s.W, W := lengthBlock (lengthBits s.mlen), pend2 := false } := by
  obtain ⟨W, t, he⟩ := h.engineRun_65
  exact he.trans (foldEdge_pend2 h2)

/-- The last block of a message. -/
theorem Loaded.engineRun_65_fin {s : State} (h : Loaded s) (h2 : s.pend2 = false) (hf : s.fin = true) :
    ∃ wv W t, engineRun 65 s =
      { s with H := compress s.H s.W, wv := wv, W := W, t := t, phase := .done, dvalid := true } := by
  obtain ⟨W, t, he⟩ := h.engineRun_65
  exact ⟨_, W, t, he.trans (foldEdge_fin h2 hf)⟩

/-- A block of an open message. -/
theorem Loaded.engineRun_65_open {s : State} (h : Loaded s) (h2 : s.pend2 = false) (hf : s.fin = false) :
    ∃ wv W t, engineRun 65 s = { s with H := compress s.H s.W, wv := wv, W := W, t := t, phase := .ready } := by
  obtain ⟨W, t, he⟩ := h.engineRun_65
  exact ⟨_, W, t, he.trans (foldEdge_open h2 hf)⟩

theorem loaded_load {Hsrc : Vector Word 8} {s : State} (h : Hsrc = s.H) : Loaded (load Hsrc s) := ⟨rfl, rfl, h⟩

/-- Settles O26: 64 rounds by the window invariant, then FOLD. -/
theorem engineCompressesOneBlock : Obligations.EngineCompressesOneBlock := by
  intro s hb ht hwv
  have h : Loaded s := ⟨hb, ht, hwv⟩
  refine ⟨fun n hn => ?_, ?_⟩
  · obtain ⟨hphase, hH, hmlen, -⟩ := h.engineRun_lt hn
    exact ⟨hphase, hH, hmlen⟩
  · cases h2 : s.pend2 with
    | true =>
      rw [h.engineRun_65_pend2 h2]
      exact ⟨rfl, rfl⟩
    | false =>
      cases hf : s.fin with
      | true =>
        obtain ⟨wv, W, t, he⟩ := h.engineRun_65_fin h2 hf
        rw [he]
        exact ⟨rfl, rfl⟩
      | false =>
        obtain ⟨wv, W, t, he⟩ := h.engineRun_65_open h2 hf
        rw [he]
        exact ⟨rfl, rfl⟩

end Sys2Proof.Machine

/-! PROOFS. What UPDATE, FINAL and FOLD write into BUF (20_memory R51 to R57, 42_commands R143, R145), and the padding of R112 in it. -/

namespace Sys2Proof.Machine

theorem commandEffect_update_fits {nb : BitVec 2} {s : State} (data : Word) (hp : s.phase = .ready) (ht : s.tail = false)
    (hlen : s.mlen.toNat + byteCount nb ≤ Config.maxMsgBytes) : commandEffect (.update nb data) s = absorb nb data s := by
  rw [commandEffect]
  obtain ⟨h | h, -⟩ | ⟨-, -, h, -⟩ | ⟨-, -, -, h⟩ := updateEffect_cases nb data s
  · exact absurd hp h
  · simp [ht] at h
  · omega
  · exact h

theorem exec_update_fits {nb : BitVec 2} {s : State} (data : Word) (hp : s.phase = .ready) (ht : s.tail = false)
    (hlen : s.mlen.toNat + byteCount nb ≤ Config.maxMsgBytes) : exec (.update nb data) s = .next (absorb nb data s) := by
  rw [exec_free _ (by simp [hp]), commandEffect_update_fits data hp ht hlen]

theorem commandEffect_final_ready {s : State} (hp : s.phase = .ready) : commandEffect .final s = padMessage s :=
  if_neg (not_not.mpr hp)

theorem exec_final_ready {s : State} (hp : s.phase = .ready) : exec .final s = .next (padMessage s) := by
  rw [exec_free _ (by simp [hp]), commandEffect_final_ready hp]

/-- After whole words an UPDATE stays inside its block, or it is the full word that completes it. -/
theorem inside_or_completes {b : BitVec 6} (hword : b.toNat % 4 = 0) (nb : BitVec 2) :
    b.toNat + byteCount nb < 64 ∨ (byteCount nb = 4 ∧ b = 60) := by
  have hn := byteCount_le nb
  by_cases h : b.toNat + byteCount nb < 64
  · exact .inl h
  · exact .inr ⟨by omega, BitVec.eq_of_toNat_eq (by simp; omega)⟩

theorem bcnt_add_toNat {b : BitVec 6} {nb : BitVec 2} (hin : b.toNat + byteCount nb < 64) :
    (b + BitVec.ofNat 6 (byteCount nb)).toNat = b.toNat + byteCount nb := by
  rw [BitVec.toNat_add, BitVec.toNat_ofNat]
  omega

/-- An UPDATE that does not complete its block. -/
theorem absorb_inside {nb : BitVec 2} {s : State} (data : Word) (ht : s.tail = false) (hin : s.bcnt.toNat + byteCount nb < 64) :
    absorb nb data s =
      { s with
        W := writeBufWord s.W s.bcnt data
        mlen := s.mlen + BitVec.ofNat 61 (byteCount nb)
        tail := decide (byteCount nb < 4)
        bcnt := s.bcnt + BitVec.ofNat 6 (byteCount nb) } := by
  obtain ⟨hn, he⟩ | ⟨hn, hb, -⟩ | ⟨hn, -, he⟩ := absorb_cases nb data s
  · rw [he]
    simp [hn]
  · have hb60 : s.bcnt.toNat = 60 := congrArg BitVec.toNat hb
    omega
  · rw [he, hn]
    simp [ht]

@[simp] theorem absorb_W (nb : BitVec 2) (data : Word) (s : State) : (absorb nb data s).W = writeBufWord s.W s.bcnt data := by
  obtain ⟨-, h⟩ | ⟨-, -, h⟩ | ⟨-, -, h⟩ := absorb_cases nb data s <;> rw [h]

/-- The message counter counts exactly: a message that fits does not wrap it (42_commands R143). -/
theorem absorb_mlen_toNat {nb : BitVec 2} {s : State} (data : Word) (hlen : s.mlen.toNat + byteCount nb ≤ Config.maxMsgBytes) :
    (absorb nb data s).mlen.toNat = s.mlen.toNat + byteCount nb := by
  have hmlen : (absorb nb data s).mlen = s.mlen + BitVec.ofNat 61 (byteCount nb) := by
    obtain ⟨-, h⟩ | ⟨-, -, h⟩ | ⟨-, -, h⟩ := absorb_cases nb data s <;> rw [h]
  have hmax : Config.maxMsgBytes < 2 ^ 61 := by decide
  rw [hmlen, BitVec.toNat_add, BitVec.toNat_ofNat, Nat.add_mod_mod]
  exact Nat.mod_eq_of_lt (by omega)

/-- Settles O11: one equation of `absorb` for each of the three cases. -/
theorem updateAbsorbsBytes : Obligations.UpdateAbsorbsBytes := by
  intro nb data s hp ht hlen
  refine ⟨_, exec_update_fits data hp ht hlen, fun i hi => ?_, absorb_mlen_toNat data hlen, fun hn => ?_, fun hn hb => ?_,
    fun hn hb => ?_⟩
  · rw [absorb_W, writeBufWord, Vector.getElem_set]
    simp only [eq_comm]
  · rw [absorb_partial hn]
  · rw [absorb_full hn hb]
  · rw [absorb_word hn hb]

/-- Settles O13: the length check fails, the phase check fails, and at `2^61 - 1` bytes both pass. -/
theorem lengthOverflowEntersError : Obligations.LengthOverflowEntersError := by
  refine ⟨fun nb data s hp ht hlen => ?_, fun nb data s hp => ⟨?_, ?_⟩, fun nb data s hp ht hlen => ?_⟩
  · have hlegal : ¬ IllegalInPhase (.update nb data) s := by
      rintro (⟨_, _, -, h | h⟩ | ⟨h, -⟩)
      · exact h hp
      · simp [ht] at h
      · cases h
    rw [exec_free _ (by simp [hp]), commandEffect_of_passesMaxLength hlegal ⟨nb, data, rfl, hlen⟩, raise_len]
  · rw [exec_free _ (by simp [hp]), commandEffect_of_illegal (.inl ⟨nb, data, rfl, .inl (by simp [hp])⟩)]
  · rw [exec_free _ (by simp [hp]), commandEffect_of_illegal (.inr ⟨rfl, by simp [hp]⟩)]
  · have hmlen := absorb_mlen_toNat data hlen.le
    obtain ⟨-, -, herr, -⟩ := absorb_sameErrors nb data s
    refine ⟨_, exec_update_fits data hp ht hlen.le, herr, BitVec.eq_of_toNat_eq ?_⟩
    rw [lengthBits_toNat, hmlen, hlen]
    rfl

/-- `MemWrite` of a word at a word address is the word write of UPDATE (20_memory R52). -/
theorem memWriteBuf_word (W : Vector Word 16) (bcnt : BitVec 6) (data : Word) :
    memWriteBuf W (4 * (bcnt.toNat / 4)) 4 data = writeBufWord W bcnt data := by
  refine buf_ext_bytes fun j => ?_
  rw [bufByte_memWriteBuf, bufByte_writeBufWord]
  by_cases h : j.val / 4 = bcnt.toNat / 4
  · have hpos : 8 * (4 - 1 - (j.val - 4 * (bcnt.toNat / 4))) = 24 - 8 * (j.val % 4) := by omega
    rw [if_pos (by omega), if_pos h, byteOfWord, hpos]
  · rw [if_neg (by omega), if_neg h]

/-- Settles O14: the word write of `absorb` byte by byte; `raise` writes no BUF. -/
theorem updateStoresFourBytes : Obligations.UpdateStoresFourBytes := by
  intro nb data s hb
  refine ⟨_, exec_free _ hb, fun hp ht hlen => ?_, fun hrefused j => ?_⟩
  · have hfits := (exec_free _ hb).symm.trans (exec_update_fits data hp ht hlen)
    rw [Host.Outcome.next.inj hfits, absorb_W]
    refine ⟨(memWriteBuf_word _ _ _).symm, fun j => (bufByte_writeBufWord _ _ _ _).trans ?_⟩
    congr 1
    exact propext (by omega)
  · rw [commandEffect]
    obtain ⟨-, h⟩ | ⟨-, -, -, h⟩ | ⟨hp, ht, hlen, -⟩ := updateEffect_cases nb data s
    · rw [h, raise_W]
    · rw [h, raise_W]
    · exact absurd ⟨hp, ht, hlen⟩ hrefused

/-- Settles O15: the bytes are those of `finalBlock`, and the frame is that of `padMessage`. -/
theorem finalPadsTheBlock : Obligations.FinalPadsTheBlock := fun s hp =>
  ⟨padMessage s, exec_final_ready hp, fun j => bufByte_finalBlock _ _ _ j, rfl⟩

/-- A byte of a bit vector as a number. -/
theorem toNat_extractLsb'_byte {w : Nat} (v : BitVec w) (a : Nat) : (v.extractLsb' a 8).toNat = v.toNat / 2 ^ a % 256 := by
  rw [BitVec.extractLsb'_toNat, Nat.shiftRight_eq_div_pow]

/-- Settles O57: `MemWrite` byte by byte. -/
theorem bufWriteIsBigEndian : Obligations.BufWriteIsBigEndian :=
  ⟨fun W j n v _ _ _ =>
    ⟨fun a hj hn => by rw [bufByte_memWriteBuf, if_pos ⟨hj, hn⟩, toNat_extractLsb'_byte],
      fun a ha => by rw [bufByte_memWriteBuf, if_neg (by omega)]⟩,
    fun _ _ => rfl⟩

/-! The padded message byte by byte (40_functions R112). -/

theorem getD_be64 (v : BitVec 64) {k : Nat} (hk : k < 8) : (be64 v).getD k 0 = byteOfDouble v k := by
  simp [be64, List.getD_eq_getElem?_getD, hk]

/-- Byte `i` of the padded message, in the four parts of R112. -/
theorem pad_getD (m : List Byte) {i : Nat} (hi : i < 64 * nblocks m.length) :
    (pad m).getD i 0 =
      if i < m.length then m.getD i 0
      else if i = m.length then 0x80
      else if i < m.length + 1 + padZeros m.length then 0
      else byteOfDouble (BitVec.ofNat 64 (8 * m.length)) (i - (m.length + 1 + padZeros m.length)) := by
  have hsize := add_padZeros_eq_nblocks m.length
  have h1 : (m ++ [(0x80 : Byte)]).length = m.length + 1 := List.length_append
  have h2 : (m ++ [(0x80 : Byte)] ++ List.replicate (padZeros m.length) 0x00).length = m.length + 1 + padZeros m.length := by
    rw [List.length_append, h1, List.length_replicate]
  unfold pad
  split
  · next h =>
    rw [List.getD_append _ _ _ _ (by omega), List.getD_append _ _ _ _ (by omega), List.getD_append _ _ _ _ h]
  split
  · next h =>
    rw [List.getD_append _ _ _ _ (by omega), List.getD_append _ _ _ _ (by omega), List.getD_append_right _ _ _ _ h.ge, h,
      Nat.sub_self, List.getD_cons_zero]
  split
  · next h =>
    rw [List.getD_append _ _ _ _ (by omega), List.getD_append_right _ _ _ _ (by omega), List.getD_replicate]
    omega
  · rw [List.getD_append_right _ _ _ _ (by omega), h2, getD_be64 _ (by omega)]

/-- The length field counts the bits of a message that fits (20_memory R57). -/
theorem lengthBits_ofNat (L : Nat) : lengthBits (BitVec.ofNat 61 L) = BitVec.ofNat 64 (8 * L) := by
  apply BitVec.eq_of_toNat_eq
  rw [lengthBits_toNat, BitVec.toNat_ofNat, BitVec.toNat_ofNat]
  omega

theorem nblocks_eq_ite (L : Nat) : nblocks L = L / 64 + if 56 ≤ L % 64 then 2 else 1 := by
  rw [nblocks_eq]
  split <;> omega

/-- The block of FINAL is the block of the padded message that holds the message's end. -/
theorem bufByte_finalBlock_eq_pad {m : List Byte} {W : Vector Word 16}
    (hW : ∀ j : Fin 64, j.val < m.length % 64 → bufByte W j = m.getD (64 * (m.length / 64) + j.val) 0) (j : Fin 64) :
    bufByte (finalBlock W (m.length % 64) (lengthBits (BitVec.ofNat 61 m.length))) j =
      (pad m).getD (64 * (m.length / 64) + j.val) 0 := by
  have hsize := add_padZeros_eq_nblocks m.length
  have hlt := padZeros_lt m.length
  have hblocks := nblocks_eq m.length
  rw [bufByte_finalBlock, finalByte, pad_getD m (by omega), lengthBits_ofNat]
  by_cases hmsg : j.val < m.length % 64
  · rw [if_pos hmsg, if_pos (show _ < m.length by omega), hW j hmsg]
  rw [if_neg hmsg, if_neg (show ¬ _ < m.length by omega)]
  by_cases hmark : j.val = m.length % 64
  · rw [if_pos hmark, if_pos (show _ = m.length by omega)]
  rw [if_neg hmark, if_neg (show ¬ _ = m.length by omega)]
  by_cases hfield : 56 ≤ j.val ∧ m.length % 64 ≤ 55
  · have hpos : 64 * (m.length / 64) + j.val - (m.length + 1 + padZeros m.length) = j.val - 56 := by omega
    rw [if_pos hfield, if_neg (by omega), hpos]
  · rw [if_neg hfield, if_pos (by omega)]

/-- The second padding block is the last block of the padded message. -/
theorem bufByte_lengthBlock_eq_pad {m : List Byte} (hk : 56 ≤ m.length % 64) (j : Fin 64) :
    bufByte (lengthBlock (lengthBits (BitVec.ofNat 61 m.length))) j = (pad m).getD (64 * (m.length / 64) + 64 + j.val) 0 := by
  have hsize := add_padZeros_eq_nblocks m.length
  have hlt := padZeros_lt m.length
  have hblocks := nblocks_eq m.length
  rw [bufByte_lengthBlock, pad_getD m (by omega), lengthBits_ofNat, if_neg (show ¬ _ < m.length by omega),
    if_neg (show ¬ _ = m.length by omega)]
  by_cases hfield : 56 ≤ j.val
  · have hpos : 64 * (m.length / 64) + 64 + j.val - (m.length + 1 + padZeros m.length) = j.val - 56 := by omega
    rw [if_pos hfield, if_neg (by omega), hpos]
  · rw [if_neg hfield, if_pos (by omega)]

/-- Settles O16: byte by byte by `pad_getD`. -/
theorem finalBlocksArePadding : Obligations.FinalBlocksArePadding := fun m _ _ hW =>
  ⟨bufByte_finalBlock_eq_pad hW, bufByte_lengthBlock_eq_pad, nblocks_eq_ite m.length⟩

end Sys2Proof.Machine

/-! PROOFS. One edge and one step of CORE (43_engine R164): acceptance, reset, determinism, and the registers that only some edges
write. -/

namespace Sys2Proof.Machine

/-- Settles O7: the four rows are RESERVED. -/
theorem reservedRowsComplete : Obligations.ReservedRowsComplete := fun _ _ hs =>
  ⟨exec_reserved rfl hs, exec_reserved rfl hs, exec_reserved rfl hs, exec_reserved rfl hs⟩

/-- After INIT every status bit but the phase is 0 (42_commands R142). -/
theorem statusOut_initEffect (s : State) : statusOut (initEffect s) = 0x0001#16 := by
  have hbusy : busyOut (initEffect s) = false := rfl
  simp [statusOut, hbusy, Phase.code]

/-- Settles O9: the effect of INIT, and its row whatever NB and DATA are. -/
theorem initStartsAMessage : Obligations.InitStartsAMessage :=
  ⟨fun s hs => ⟨initEffect s, exec_free .init hs, statusOut_initEffect s, rfl⟩,
    fun nb data => decode_wordOfFields 0x1#4 nb 0 data, by decide⟩

/-- Settles O10: in BUSY no meaning has an effect, and an edge without reset is the engine's. -/
theorem noCommandWhileBusy : Obligations.NoCommandWhileBusy := fun s hb =>
  ⟨fun i => exec_busy i hb, fun p hrst =>
    ⟨by simp [cmdReadyOut, hb], (edge_engine hrst hb).trans (edge_engine (p := PortIn.idle) rfl hb).symm⟩⟩

/-- Settles O39: a reset edge looks at nothing but `rst`. -/
theorem resetEdgeSetsEveryRegister : Obligations.ResetEdgeSetsEveryRegister :=
  ⟨fun s hrst => edge_rst hrst (popInput s), fun p rest hrst => edge_rst (p := p) hrst (popInput (State.powerUp (p :: rest))),
    fun _ => rfl, rfl, rfl, rfl, rfl, rfl, rfl, rfl, rfl, rfl, rfl, rfl, rfl, rfl, rfl, rfl⟩

/-- Every edge goes on. -/
theorem exists_edge_eq_next (p : PortIn) (s : State) : ∃ t, edge p s = .next t := by
  obtain ⟨-, h⟩ | ⟨-, -, h⟩ | ⟨-, -, -, h⟩ | ⟨-, -, -, h⟩ := edge_cases p s <;> exact ⟨_, h⟩

/-- Settles O41: a step is an edge. -/
theorem everyStepGivesANextState : Obligations.EveryStepGivesANextState := fun s =>
  exists_edge_eq_next (nextInput s) (popInput s)

/-- A word placed at the port stands in the next sample. -/
theorem step_withFetchWord (s : State) (w : Nat) (hb : s.phase ≠ .busy) :
    step (s.withFetchWord 40 w) = exec (decode (BitVec.ofNat 40 w)) s := by
  have hword : tableWord 40 w = BitVec.ofNat 40 w := by
    apply BitVec.eq_of_toNat_eq
    simp [tableWord]
  rw [exec_free _ hb, ← hword]
  exact edge_command (p := PortIn.command (tableWord 40 w)) rfl rfl hb

/-- Settles O42: an edge that accepts the offered command is its meaning. -/
theorem stepRunsTheOfferedCommand : Obligations.StepRunsTheOfferedCommand :=
  ⟨fun s hb hrst hv => edge_accepted (s := popInput s) hv ((cmdReadyOut_eq_true_iff _ _).mpr ⟨hrst, hb⟩),
    fun s w => step_withFetchWord s w⟩

/-- An edge neither reads nor writes the samples of the coming edges. -/
theorem edge_withInputs {p : PortIn} {s t : State} (ins : List PortIn) (h : edge p s = .next t) :
    edge p { s with inputs := ins } = .next { t with inputs := ins } := by
  obtain ⟨hrst, he⟩ | ⟨hrst, hb, he⟩ | ⟨hrst, hb, hv, he⟩ | ⟨hrst, hb, hv, he⟩ := edge_cases p s <;>
    obtain rfl := Host.Outcome.next.inj (he.symm.trans h)
  · exact edge_rst hrst _
  · rw [← engineEdge_withInputs]
    exact edge_engine hrst hb
  · rw [← commandEffect_withInputs]
    exact edge_command hrst hv hb
  · exact edge_idle hrst hv hb

theorem edge_inputs {p : PortIn} {s t : State} (h : edge p s = .next t) : t.inputs = s.inputs := by
  obtain ⟨-, he⟩ | ⟨-, -, he⟩ | ⟨-, -, -, he⟩ | ⟨-, -, -, he⟩ := edge_cases p s <;>
    obtain rfl := Host.Outcome.next.inj (he.symm.trans h) <;> simp

/-- An edge is the step function of R164 on the registers. -/
theorem edge_eq_nextRegisters (p : PortIn) (s : State) :
    edge p s = .next { toRegisters := nextRegisters p s.toRegisters, inputs := s.inputs } := by
  obtain ⟨t, h⟩ := exists_edge_eq_next p s
  have hregs : nextRegisters p s.toRegisters = t.toRegisters :=
    nextRegisters_of_edge (s := { t with inputs := [] }) (edge_withInputs [] h)
  rw [h, hregs, ← edge_inputs h]

/-- Settles O43: a step is an edge, and a reset edge leaves the reset registers. -/
theorem registersFollowTheStepFunction : Obligations.RegistersFollowTheStepFunction :=
  ⟨edge_eq_nextRegisters, fun s => edge_eq_nextRegisters (nextInput s) (popInput s),
    fun _ _ hrst => nextRegisters_of_edge (edge_rst hrst _)⟩

/-! Which edges write `H`, leave ERROR and DONE, and clear an error. -/

/-- `raise` keeps the errors that are recorded already (60_exceptions R186). -/
theorem raise_keeps_errors (c : ErrCause) (s : State) :
    (s.errOp = true → (raise c s).errOp = true) ∧ (s.errSeq = true → (raise c s).errSeq = true) ∧
      (s.errLen = true → (raise c s).errLen = true) ∧ (s.firstErr ≠ 0 → (raise c s).firstErr = s.firstErr) :=
  ⟨fun h => by simp [h], fun h => by simp [h], fun h => by simp [h], fun h => if_neg h⟩

theorem SameErrors.keeps_errors {t s : State} (h : SameErrors t s) :
    (s.errOp = true → t.errOp = true) ∧ (s.errSeq = true → t.errSeq = true) ∧ (s.errLen = true → t.errLen = true) ∧
      (s.firstErr ≠ 0 → t.firstErr = s.firstErr) := by
  obtain ⟨hop, hseq, hlen, hfirst⟩ := h
  exact ⟨hop.trans, hseq.trans, hlen.trans, fun _ => hfirst⟩

/-- Settles O20: the engine and idle edges keep the error registers, and of the commands only INIT clears them. -/
theorem errorsAreSticky : Obligations.ErrorsAreSticky := by
  intro s t h hrst hinit
  obtain ⟨hr, -⟩ | ⟨-, -, rfl⟩ | ⟨-, hb, hv, rfl⟩ | ⟨-, -, -, rfl⟩ := step_cases h
  · simp [hrst] at hr
  · exact (engineEdge_sameErrors (popInput s)).keeps_errors
  · obtain ⟨-, h⟩ | ⟨hi, -⟩ | ⟨c, h, -⟩ | ⟨nb, data, -, -, -, -, h⟩ | ⟨-, -, h⟩ :=
      commandEffect_cases (decode (nextInput s).cmdWord) (popInput s)
    · rw [h]
      exact ⟨id, id, id, fun _ => rfl⟩
    · exact absurd ⟨hb, hv, hi⟩ hinit
    · rw [h]
      exact raise_keeps_errors c (popInput s)
    · rw [h]
      exact (absorb_sameErrors nb data (popInput s)).keeps_errors
    · rw [h]
      exact ⟨id, id, id, fun _ => rfl⟩
  · exact ⟨id, id, id, fun _ => rfl⟩

@[simp] theorem absorb_H (nb : BitVec 2) (data : Word) (s : State) : (absorb nb data s).H = s.H := by
  obtain ⟨-, h⟩ | ⟨-, -, h⟩ | ⟨-, -, h⟩ := absorb_cases nb data s <;> rw [h]

@[simp] theorem foldEdge_H (s : State) : (foldEdge s).H = foldBack s.H s.wv := by
  obtain ⟨-, h⟩ | ⟨-, -, h⟩ | ⟨-, -, h⟩ := foldEdge_cases s <;> rw [h]

/-- Of the commands only INIT writes `H` (10_state R20). -/
theorem commandEffect_H {i : Instr} (hi : i ≠ .init) (s : State) : (commandEffect i s).H = s.H := by
  obtain ⟨-, h⟩ | ⟨h, -⟩ | ⟨c, h, -⟩ | ⟨nb, data, -, -, -, -, h⟩ | ⟨-, -, h⟩ := commandEffect_cases i s
  · rw [h]
  · exact absurd h hi
  · rw [h, raise_H]
  · rw [h, absorb_H]
  · rw [h, padMessage_H]

/-- Settles O46: ROUND and the other commands keep `H`. -/
theorem onlyInitAndFoldWriteH : Obligations.OnlyInitAndFoldWriteH := by
  intro s t h hrst
  obtain ⟨hr, -⟩ | ⟨-, hb, rfl⟩ | ⟨-, hb, hv, rfl⟩ | ⟨-, -, -, rfl⟩ := step_cases h
  · simp [hrst] at hr
  · obtain ⟨-, he⟩ | ⟨ht, he⟩ := engineEdge_cases (popInput s)
    · exact .inl (congrArg (·.H) he)
    · refine .inr (.inr ⟨hb, ht, fun i => ?_⟩)
      rw [he, foldEdge_H]
      exact foldBack_get _ _ i i.isLt
  · by_cases hi : decode (nextInput s).cmdWord = .init
    · refine .inr (.inl ⟨hb, hv, hi, ?_⟩)
      rw [hi]
      rfl
    · exact .inl (commandEffect_H hi (popInput s))
  · exact .inl rfl

/-- Outside READY, commands other than INIT leave all but the error registers as they are (42_commands R140). -/
theorem commandEffect_of_not_ready {i : Instr} {s : State} (hi : i ≠ .init) (hp : s.phase ≠ .ready) :
    (commandEffect i s).phase = s.phase ∧ (commandEffect i s).dvalid = s.dvalid := by
  obtain ⟨-, h⟩ | ⟨h, -⟩ | ⟨c, h, hc⟩ | ⟨nb, data, -, h, -⟩ | ⟨-, h, -⟩ := commandEffect_cases i s
  · simp only [h, and_self]
  · exact absurd h hi
  · rw [h, raise_phase, if_neg fun hl => hp (hc hl)]
    exact ⟨rfl, rfl⟩
  · exact absurd h hp
  · exact absurd h hp

/-- Settles O47: in ERROR and DONE no edge is the engine's, and only INIT changes the phase. -/
theorem onlyInitLeavesErrorAndDone : Obligations.OnlyInitLeavesErrorAndDone := by
  intro s t h hrst hp
  obtain ⟨hr, -⟩ | ⟨-, hb, -⟩ | ⟨-, -, hv, rfl⟩ | ⟨-, -, -, rfl⟩ := step_cases h
  · simp [hrst] at hr
  · simp [hb] at hp
  · by_cases hi : decode (nextInput s).cmdWord = .init
    · refine .inr ⟨hv, hi, ?_⟩
      rw [hi]
      rfl
    · have hready : (popInput s).phase ≠ .ready := fun hr => by
        rw [popInput_phase] at hr
        simp [hr] at hp
      exact .inl (commandEffect_of_not_ready hi hready).1
  · exact .inl rfl

/-! The digest outputs (43_engine R166). -/

/-- The mux shows the word of the bus that `dout_sel` selects. -/
theorem doutOut_eq_digestOut (sel : BitVec 3) (s : State) :
    doutOut sel s = (digestOut s).extractLsb' (224 - 32 * sel.toNat) 32 := by
  cases hd : s.dvalid with
  | false => simp [doutOut_invalid sel hd, digestOut_invalid hd]
  | true =>
    rw [digestOut_word hd sel.toNat sel.isLt]
    exact if_pos hd

/-- Settles O34: the port `dout` is the mux. -/
theorem muxSelectsADigestWord : Obligations.MuxSelectsADigestWord := fun s sel =>
  ⟨doutOut_eq_digestOut sel s, doutOut_invalid sel, fun _ hp => congrArg (doutOut · s) hp⟩

/-- Settles O35: by the first invariant `dvalid = 0` outside DONE. -/
theorem noDigestOutsideDone : Obligations.NoDigestOutsideDone := fun s hinv hp =>
  have hd : s.dvalid = false := Bool.eq_false_iff.mpr fun hd => hp (hinv.dvalid_iff.mp hd)
  ⟨hd, digestOut_invalid hd, fun sel => doutOut_invalid sel hd⟩

/-- The bus and the mux are functions of `dvalid` and `H`. -/
theorem digestOut_congr {s t : State} (hd : t.dvalid = s.dvalid) (hH : t.H = s.H) : digestOut t = digestOut s := by
  simp only [digestOut, hd, hH]

/-- Settles O36: in DONE the commands other than INIT write neither `dvalid` nor `H`. -/
theorem digestStaysInDone : Obligations.DigestStaysInDone := by
  intro s t hp h hrst hinit
  suffices hkept : t.phase = s.phase ∧ t.dvalid = s.dvalid ∧ t.H = s.H by
    obtain ⟨hphase, hd, hH⟩ := hkept
    have hbus := digestOut_congr hd hH
    exact ⟨hphase.trans hp, hd, hbus, fun sel => by rw [doutOut_eq_digestOut, hbus, doutOut_eq_digestOut]⟩
  obtain ⟨hr, -⟩ | ⟨-, hb, -⟩ | ⟨-, -, hv, rfl⟩ | ⟨-, -, -, rfl⟩ := step_cases h
  · simp [hrst] at hr
  · simp [hb] at hp
  · have hi : decode (nextInput s).cmdWord ≠ .init := fun hi => hinit ⟨hv, hi⟩
    have hready : (popInput s).phase ≠ .ready := by simp [hp]
    obtain ⟨hphase, hd⟩ := commandEffect_of_not_ready hi hready
    exact ⟨hphase, hd, commandEffect_H hi (popInput s)⟩
  · exact ⟨rfl, rfl, rfl⟩

/-- The first CORE of a chip steps by itself, and the rest by themselves (60_exceptions R192). -/
theorem chipStep_cons {s : State} {rest chip' : Chip} (h : Chip.step (s :: rest) = .next chip') :
    ∃ s' rest', step s = .next s' ∧ Chip.step rest = .next rest' ∧ chip' = s' :: rest' := by
  rw [Chip.step] at h
  split at h <;> cases h
  next s' rest' hs hrest => exact ⟨s', rest', hs, hrest, rfl⟩

/-- Settles O52: by induction on the list of them. -/
theorem instancesAreIndependent : Obligations.InstancesAreIndependent := by
  intro chip
  induction chip with
  | nil =>
    intro chip' h
    cases h
    exact ⟨rfl, fun i hi => absurd hi (Nat.not_lt_zero i)⟩
  | cons s rest ih =>
    intro chip' h
    obtain ⟨s', rest', hs, hrest, rfl⟩ := chipStep_cons h
    obtain ⟨hlen, hstep⟩ := ih rest' hrest
    refine ⟨congrArg (· + 1) hlen, fun i hi hi' => ?_⟩
    cases i with
    | zero => exact hs
    | succ i => exact hstep i (Nat.lt_of_succ_lt_succ hi) (Nat.lt_of_succ_lt_succ hi')

end Sys2Proof.Machine

/-! PROOFS. The ten invariants of 10_state R35: they hold at reset, and every effect that a step can have keeps them. -/

namespace Sys2Proof.Machine

/-- Settles O44: each invariant at the reset values. -/
theorem invariantAtReset : Obligations.InvariantAtReset := fun ins => by
  constructor <;> simp

/-- In READY a message is open and no digest valid. -/
theorem State.Inv.flags_of_ready {s : State} (h : s.Inv) (hp : s.phase = .ready) :
    s.fin = false ∧ s.pend2 = false ∧ s.dvalid = false := by
  have hfin : s.fin = false := Bool.eq_false_iff.mpr fun hf => by simpa [hp] using h.fin_phase hf
  refine ⟨hfin, Bool.eq_false_iff.mpr fun h2 => ?_, Bool.eq_false_iff.mpr fun hd => ?_⟩
  · simpa [hp] using (h.pend2_fin h2).2
  · simpa [hp] using h.dvalid_iff.mp hd

/-- Before the tail the bytes of the block are whole words. -/
theorem State.Inv.bcnt_of_tail {s : State} (h : s.Inv) (ht : s.tail = false) : s.bcnt.toNat % 4 = 0 := by
  simpa [ht] using h.bcnt_tail

theorem inv_hardReset (s : State) : (hardReset s).Inv := invariantAtReset s.inputs

theorem inv_popInput {s : State} (h : s.Inv) : (popInput s).Inv := { h with }

theorem inv_initEffect (s : State) : (initEffect s).Inv := by
  constructor <;> simp

/-- A raised error leaves a first cause (60_exceptions R181). -/
theorem raise_firstErr_ne_zero (c : ErrCause) (s : State) : (raise c s).firstErr ≠ 0 := by
  rw [raise_firstErr]
  split
  · exact c.code_ne_zero
  · assumption

/-- ERR_LEN enters ERROR from READY, where no block is pending. -/
theorem inv_raise_len {s : State} (h : s.Inv) (hp : s.phase = .ready) : (raise .len s).Inv := by
  obtain ⟨hf, h2, hd⟩ := h.flags_of_ready hp
  constructor
  case bcnt_mlen => exact h.bcnt_mlen
  case bcnt_tail => exact h.bcnt_tail
  case tail_bcnt => exact h.tail_bcnt
  case error_regs => exact fun _ => ⟨Bool.or_true _, raise_firstErr_ne_zero .len s, hf⟩
  all_goals simp [hf, h2, hd]

/-- The other causes stay in the phase and write error registers only. -/
theorem inv_raise {c : ErrCause} {s : State} (h : s.Inv) (hc : c ≠ .len) : (raise c s).Inv := by
  have herror (hp : s.phase = .error) : (raise c s).errLen = true ∧ (raise c s).firstErr ≠ 0 ∧ s.fin = false := by
    obtain ⟨hlen, -, hfin⟩ := h.error_regs hp
    exact ⟨by simp [hlen], raise_firstErr_ne_zero c s, hfin⟩
  cases c with
  | len => exact absurd rfl hc
  | op | seq => exact { h with error_regs := herror }

/-- UPDATE keeps the counters in step: the block fills up word by word, and a partial word ends it. -/
theorem inv_absorb {nb : BitVec 2} {s : State} (data : Word) (h : s.Inv) (hp : s.phase = .ready) (ht : s.tail = false)
    (hlen : s.mlen.toNat + byteCount nb ≤ Config.maxMsgBytes) : (absorb nb data s).Inv := by
  obtain ⟨hf, h2, hd⟩ := h.flags_of_ready hp
  have hmlen := absorb_mlen_toNat data hlen
  have hword := h.bcnt_of_tail ht
  have hbm := h.bcnt_mlen hf
  obtain hin | ⟨hn, hb⟩ := inside_or_completes hword nb
  · have hbcnt := bcnt_add_toNat hin
    have hpos := byteCount_pos nb
    have hn4 := byteCount_le nb
    rw [absorb_inside data ht hin] at hmlen ⊢
    constructor
    case bcnt_mlen => exact fun _ => by rw [hmlen, hbcnt]; omega
    case bcnt_tail => rw [hbcnt, decide_eq_true_iff]; omega
    case tail_bcnt => rw [hbcnt, decide_eq_true_iff]; omega
    all_goals simp [hp, hf, h2, hd]
  · have hb60 : s.bcnt.toNat = 60 := congrArg BitVec.toNat hb
    rw [absorb_full hn hb] at hmlen ⊢
    constructor
    case bcnt_mlen => exact fun _ => by rw [hmlen]; simp; omega
    all_goals simp [ht, hf, h2, hd]

theorem inv_padMessage {s : State} (h : s.Inv) (hp : s.phase = .ready) : (padMessage s).Inv := by
  obtain ⟨-, -, hd⟩ := h.flags_of_ready hp
  constructor <;> simp [hd]

theorem inv_commandEffect (i : Instr) {s : State} (h : s.Inv) : (commandEffect i s).Inv := by
  obtain ⟨-, he⟩ | ⟨-, he⟩ | ⟨c, he, hc⟩ | ⟨nb, data, -, hp, ht, hlen, he⟩ | ⟨-, hp, he⟩ := commandEffect_cases i s <;> rw [he]
  · exact h
  · exact inv_initEffect s
  · by_cases hl : c = .len
    · rw [hl]
      exact inv_raise_len h (hc hl)
    · exact inv_raise h hl
  · exact inv_absorb data h hp ht hlen
  · exact inv_padMessage h hp

theorem inv_roundEdge {s : State} (h : s.Inv) (hb : s.phase = .busy) (ht : s.t.toNat < 64) : (roundEdge s).Inv :=
  { h with
    busy_t := fun _ => (roundEdge_t_toNat ht).trans_le ht
    idle_regs := fun hp => by simp [hb] at hp }

/-- FOLD leaves BUSY only with the flags of the phase it enters. -/
theorem inv_foldEdge {s : State} (h : s.Inv) (hb : s.phase = .busy) : (foldEdge s).Inv := by
  have hd : s.dvalid = false := Bool.eq_false_iff.mpr fun hd => by simpa [hb] using h.dvalid_iff.mp hd
  obtain ⟨h2, he⟩ | ⟨h2, hf, he⟩ | ⟨h2, hf, he⟩ := foldEdge_cases s <;> rw [he]
  · have hf : s.fin = true := (h.pend2_fin h2).1
    constructor
    case bcnt_tail => exact h.bcnt_tail
    all_goals simp [hd, hf]
  · constructor
    case bcnt_tail => exact h.bcnt_tail
    all_goals simp [h2, hf]
  · constructor
    case bcnt_mlen => exact h.bcnt_mlen
    case bcnt_tail => exact h.bcnt_tail
    case tail_bcnt => exact h.tail_bcnt
    all_goals simp [hd, h2, hf]

theorem inv_engineEdge {s : State} (h : s.Inv) (hb : s.phase = .busy) : (engineEdge s).Inv := by
  obtain ⟨ht, he⟩ | ⟨-, he⟩ := engineEdge_cases s <;> rw [he]
  · exact inv_roundEdge h hb ht
  · exact inv_foldEdge h hb

/-- Settles O45: one lemma for each effect of `step_cases`. -/
theorem stepKeepsTheInvariant : Obligations.StepKeepsTheInvariant := by
  intro s t h hstep
  have hpop := inv_popInput h
  obtain ⟨-, rfl⟩ | ⟨-, hb, rfl⟩ | ⟨-, -, -, rfl⟩ | ⟨-, -, -, rfl⟩ := step_cases hstep
  · exact inv_hardReset _
  · exact inv_engineEdge hpop hb
  · exact inv_commandEffect _ hpop
  · exact hpop

end Sys2Proof.Machine

/-! PROOFS. Timing and control do not depend on data (70_reset R213): effects on states with equal control registers leave equal control
registers. -/

namespace Sys2Proof.Machine

/-- Equal control registers, register by register. -/
theorem control_eq_iff (s s' : State) :
    s.control = s'.control ↔
      s.t = s'.t ∧ s.bcnt = s'.bcnt ∧ s.mlen = s'.mlen ∧ s.phase = s'.phase ∧ s.fin = s'.fin ∧ s.pend2 = s'.pend2 ∧
        s.tail = s'.tail ∧ s.dvalid = s'.dvalid ∧ s.errOp = s'.errOp ∧ s.errSeq = s'.errSeq ∧ s.errLen = s'.errLen ∧
        s.firstErr = s'.firstErr := by
  simp [State.control]

section
variable {s s' : State} (h : s.control = s'.control)
include h

theorem control_raise (c : ErrCause) : (raise c s).control = (raise c s').control := by
  simp only [control_eq_iff] at h
  simp [State.control, h]

theorem control_absorb (nb : BitVec 2) (data data' : Word) : (absorb nb data s).control = (absorb nb data' s').control := by
  obtain ⟨ht, hb, hm, hp, hf, h2, hta, hd, ho, hs, hl, h1⟩ := (control_eq_iff s s').mp h
  obtain ⟨hn, he⟩ | ⟨hn, hb60, he⟩ | ⟨hn, hb60, he⟩ := absorb_cases nb data s
  · rw [he, absorb_partial hn]
    simp [State.control, *]
  · rw [he, absorb_full hn (hb ▸ hb60)]
    simp [State.control, *]
  · rw [he, absorb_word hn (hb ▸ hb60)]
    simp [State.control, *]

/-- The checks of UPDATE look at control registers only. -/
theorem control_updateEffect (nb : BitVec 2) (data data' : Word) :
    (updateEffect nb data s).control = (updateEffect nb data' s').control := by
  obtain ⟨-, -, hm, hp, -, -, hta, -⟩ := (control_eq_iff s s').mp h
  simp only [updateEffect, ← hp, ← hta, ← hm]
  split
  · exact control_raise h .seq
  · split
    · exact control_raise h .len
    · exact control_absorb h nb data data'

theorem control_padMessage : (padMessage s).control = (padMessage s').control := by
  simp only [control_eq_iff] at h
  simp [State.control, h]

theorem control_finalEffect : (finalEffect s).control = (finalEffect s').control := by
  obtain ⟨-, -, -, hp, -⟩ := (control_eq_iff s s').mp h
  simp only [finalEffect, ← hp]
  split
  · exact control_raise h .seq
  · exact control_padMessage h

/-- Two words with the same OP, NB and RSV are commands of one row, and its effect on control does not depend on DATA. -/
theorem control_commandEffect_rowCommand {w w' : CmdWord} (hnb : nbField w = nbField w') :
    ∀ r : Fin 8, (commandEffect (rowCommand w r) s).control = (commandEffect (rowCommand w' r) s').control
  | 0 => h
  | 1 => by
    obtain ⟨ht, -⟩ := (control_eq_iff s s').mp h
    exact congrArg (fun t => { (initEffect s).control with t := t }) ht
  | 2 => by
    simp only [rowCommand, commandEffect, hnb]
    exact control_updateEffect h (nbField w') (dataField w) (dataField w')
  | 3 => control_finalEffect h
  | 4 | 5 | 6 | 7 => control_raise h .op

theorem control_engineEdge : (engineEdge s).control = (engineEdge s').control := by
  obtain ⟨ht, hb, hm, hp, hf, h2, hta, hd, ho, hs, hl, h1⟩ := (control_eq_iff s s').mp h
  obtain ⟨hlt, he⟩ | ⟨hge, he⟩ := engineEdge_cases s
  · rw [he, engineEdge_round (ht ▸ hlt)]
    simp [State.control, *]
  · rw [he, engineEdge_fold (ht ▸ hge)]
    obtain ⟨hp2, he⟩ | ⟨hp2, hfin, he⟩ | ⟨hp2, hfin, he⟩ := foldEdge_cases s
    · rw [he, foldEdge_pend2 (h2 ▸ hp2)]
      simp [State.control, *]
    · rw [he, foldEdge_fin (h2 ▸ hp2) (hf ▸ hfin)]
      simp [State.control, *]
    · rw [he, foldEdge_open (h2 ▸ hp2) (hf ▸ hfin)]
      simp [State.control, *]

/-- `status` is a function of the control registers (10_state R33). -/
theorem statusOut_of_control : statusOut s = statusOut s' := by
  simp only [control_eq_iff] at h
  simp [statusOut, busyOut, h]

theorem cmdReadyOut_of_control (rst : Bool) : cmdReadyOut rst s = cmdReadyOut rst s' := by
  obtain ⟨-, -, -, hp, -⟩ := (control_eq_iff s s').mp h
  simp only [cmdReadyOut, hp]

/-- Edges with port samples that differ in DATA only. -/
theorem control_edge {p p' : PortIn} (hpp : p.SameButData p') {t t' : State} (ht : edge p s = .next t)
    (ht' : edge p' s' = .next t') : t.control = t'.control := by
  obtain ⟨-, -, -, hp, -⟩ := (control_eq_iff s s').mp h
  obtain ⟨hrst, hv, hop, hnb, hrsv⟩ := hpp
  have hresult {u u' : State} (he : edge p s = .next u) (he' : edge p' s' = .next u') (hu : u.control = u'.control) :
      t.control = t'.control := by
    rwa [Host.Outcome.next.inj (ht.symm.trans he), Host.Outcome.next.inj (ht'.symm.trans he')]
  obtain ⟨hr, he⟩ | ⟨hr, hb, he⟩ | ⟨hr, hb, hval, he⟩ | ⟨hr, hb, hval, he⟩ := edge_cases p s
  · exact hresult he (edge_rst (hrst ▸ hr) s') rfl
  · exact hresult he (edge_engine (hrst ▸ hr) (hp ▸ hb)) (control_engineEdge h)
  · refine hresult he (edge_command (hrst ▸ hr) (hv ▸ hval) (hp ▸ hb)) ?_
    rw [decode_eq_rowCommand, decode_eq_rowCommand, hop, hrsv]
    exact control_commandEffect_rowCommand h hnb _
  · exact hresult he (edge_idle (hrst ▸ hr) (hv ▸ hval) (hp ▸ hb)) h

end

/-- Settles O48: a step is an edge, and the outputs are functions of the control registers. -/
theorem controlIsIndependentOfData : Obligations.ControlIsIndependentOfData := fun s s' _ _ h hin hs hs' =>
  have hpop : (popInput s).control = (popInput s').control := h
  have ht := control_edge hpop hin hs hs'
  ⟨ht, statusOut_of_control ht, cmdReadyOut_of_control ht⟩

end Sys2Proof.Machine

/-! PROOFS. What no observation can tell (70_reset R203, 20_memory R59): every effect of a step takes states that differ only in it to
such states, and two UPDATEs that differ in don't-care bytes leave such states. -/

namespace Sys2Proof.Machine

/-- A BUSY state has no part that is not observed. -/
theorem State.Alike.eq_of_busy {s s' : State} (h : s.Alike s') (hb : s.phase = .busy) : s = s' := by
  obtain ⟨hwv, hW, ht⟩ := h.engine hb
  exact state_ext h.H hwv hW ht h.bcnt h.mlen h.phase h.fin h.pend2 h.tail h.dvalid h.errOp h.errSeq h.errLen h.firstErr h.inputs

theorem State.Alike.refl (s : State) : s.Alike s := by
  constructor <;> simp

theorem alike_popInput {s s' : State} (h : s.Alike s') : (popInput s).Alike (popInput s') :=
  { h with inputs := congrArg List.tail h.inputs }

theorem alike_hardReset {s s' : State} (h : s.Alike s') : (hardReset s).Alike (hardReset s') := by
  have hreset : hardReset s = hardReset s' := by rw [hardReset, hardReset, h.inputs]
  rw [hreset]
  exact .refl _

theorem alike_initEffect {s s' : State} (h : s.Alike s') : (initEffect s).Alike (initEffect s') := by
  constructor <;> simp [h.inputs]

/-- `raise` writes nothing that is not observed, and does not enter READY or BUSY. -/
theorem alike_raise (c : ErrCause) {s s' : State} (h : s.Alike s') : (raise c s).Alike (raise c s') := by
  have hfirst : (raise c s).firstErr = (raise c s').firstErr := by simp only [raise_firstErr, h.firstErr]
  have hop : (raise c s).errOp = (raise c s').errOp := congrArg (· || c == .op) h.errOp
  have hseq : (raise c s).errSeq = (raise c s').errSeq := congrArg (· || c == .seq) h.errSeq
  have hlen : (raise c s).errLen = (raise c s').errLen := congrArg (· || c == .len) h.errLen
  cases c with
  | op | seq => exact { h with errOp := hop, errSeq := hseq, errLen := hlen, firstErr := hfirst }
  | len =>
    exact
      { h with
        phase := rfl, errOp := hop, errSeq := hseq, errLen := hlen, firstErr := hfirst
        engine := fun hb => by simp at hb
        buffer := fun hr => by simp at hr }

/-- After the word write of UPDATE two buffers agree on the message bytes, the old and the new ones. -/
theorem bufByte_writeBufWord_agree {W W' : Vector Word 16} {bcnt : BitVec 6} {n : Nat} {d d' : Word} (hn : n ≤ 4)
    (hword : bcnt.toNat % 4 = 0) (hbuf : ∀ j : Fin 64, j.val < bcnt.toNat → bufByte W j = bufByte W' j)
    (hd : ∀ k < n, byteOfWord d k = byteOfWord d' k) {j : Fin 64} (hj : j.val < bcnt.toNat + n) :
    bufByte (writeBufWord W bcnt d) j = bufByte (writeBufWord W' bcnt d') j := by
  rw [bufByte_writeBufWord, bufByte_writeBufWord]
  split
  · exact hd _ (by omega)
  · exact hbuf j (by omega)

theorem alike_absorb {nb : BitVec 2} {d d' : Word} {s s' : State} (hinv : s.Inv) (h : s.Alike s') (hp : s.phase = .ready)
    (ht : s.tail = false) (hd : ∀ k < byteCount nb, byteOfWord d k = byteOfWord d' k) :
    (absorb nb d s).Alike (absorb nb d' s') := by
  have hbytes {j : Fin 64} (hj : j.val < s.bcnt.toNat + byteCount nb) :
      bufByte (writeBufWord s.W s.bcnt d) j = bufByte (writeBufWord s'.W s'.bcnt d') j := by
    rw [← h.bcnt]
    exact bufByte_writeBufWord_agree (byteCount_le nb) (hinv.bcnt_of_tail ht) (h.buffer hp) hd hj
  have hmlen : s.mlen + BitVec.ofNat 61 (byteCount nb) = s'.mlen + BitVec.ofNat 61 (byteCount nb) := by rw [h.mlen]
  obtain hin | ⟨hn, hb⟩ := inside_or_completes (hinv.bcnt_of_tail ht) nb
  · rw [absorb_inside d ht hin, absorb_inside d' (h.tail ▸ ht) (h.bcnt ▸ hin)]
    exact
      { h with
        mlen := hmlen, tail := rfl, bcnt := congrArg (· + _) h.bcnt
        engine := fun hb => by simp [hp] at hb
        buffer := fun _ j hj => hbytes (by rwa [bcnt_add_toNat hin] at hj) }
  · rw [absorb_full hn hb, absorb_full hn (h.bcnt ▸ hb)]
    have hb60 : s.bcnt.toNat = 60 := congrArg BitVec.toNat hb
    have hW : writeBufWord s.W s.bcnt d = writeBufWord s'.W s'.bcnt d' := buf_ext_bytes fun j => hbytes (by omega)
    exact
      { h with
        mlen := hmlen, bcnt := rfl, phase := rfl
        engine := fun _ => ⟨h.H, hW, rfl⟩
        buffer := fun hr => by simp at hr }

/-- UPDATE does not show its don't-care bytes (20_memory R59). -/
theorem alike_updateEffect {nb : BitVec 2} {d d' : Word} {s s' : State} (hinv : s.Inv) (h : s.Alike s')
    (hd : ∀ k < byteCount nb, byteOfWord d k = byteOfWord d' k) : (updateEffect nb d s).Alike (updateEffect nb d' s') := by
  simp only [updateEffect, ← h.phase, ← h.tail, ← h.mlen]
  split
  · exact alike_raise .seq h
  split
  · exact alike_raise .len h
  · next hlegal _ =>
    obtain ⟨hp, ht⟩ : s.phase = .ready ∧ s.tail = false := by simpa using hlegal
    exact alike_absorb hinv h hp ht hd

/-- FINAL overwrites every byte that is not a message byte. -/
theorem alike_padMessage {s s' : State} (h : s.Alike s') (hp : s.phase = .ready) : (padMessage s).Alike (padMessage s') := by
  have hW : (padMessage s).W = (padMessage s').W := by
    refine buf_ext_bytes fun j => ?_
    rw [padMessage_W, padMessage_W, bufByte_finalBlock, bufByte_finalBlock, ← h.bcnt, ← h.mlen, finalByte, finalByte]
    split
    · next hj => exact h.buffer hp j hj
    · rfl
  exact
    { h with
      bcnt := rfl, phase := rfl, fin := rfl, pend2 := by rw [padMessage_pend2, padMessage_pend2, h.bcnt]
      engine := fun _ => ⟨h.H, hW, rfl⟩
      buffer := fun hr => by simp at hr }

theorem alike_commandEffect (i : Instr) {s s' : State} (hinv : s.Inv) (h : s.Alike s') :
    (commandEffect i s).Alike (commandEffect i s') := by
  cases i with
  | nop => exact h
  | init => exact alike_initEffect h
  | update nb data => exact alike_updateEffect hinv h fun _ _ => rfl
  | final =>
    rw [commandEffect, commandEffect, finalEffect, finalEffect, ← h.phase]
    split
    · exact alike_raise .seq h
    · next hp => exact alike_padMessage h (not_not.mp hp)
  | reservedOpLow | reservedOpHigh | reservedRsvOdd | reservedRsvTwo => exact alike_raise .op h

theorem alike_step {s s' t t' : State} (hinv : s.Inv) (h : s.Alike s') (hs : step s = .next t) (hs' : step s' = .next t') :
    t.Alike t' := by
  have hin : nextInput s = nextInput s' := congrArg (·.headD PortIn.idle) h.inputs
  have hpop := alike_popInput h
  obtain ⟨hr, rfl⟩ | ⟨-, hb, -⟩ | ⟨hr, hb, hv, rfl⟩ | ⟨hr, hb, hv, rfl⟩ := step_cases hs
  · obtain rfl := Host.Outcome.next.inj (hs'.symm.trans (edge_rst (hin ▸ hr) (popInput s')))
    exact alike_hardReset hpop
  · obtain rfl := h.eq_of_busy hb
    obtain rfl := Host.Outcome.next.inj (hs.symm.trans hs')
    exact .refl t
  · have hb' : (popInput s').phase ≠ .busy := h.phase ▸ hb
    obtain rfl := Host.Outcome.next.inj (hs'.symm.trans (edge_command (hin ▸ hr) (hin ▸ hv) hb'))
    rw [hin]
    exact alike_commandEffect _ (inv_popInput hinv) hpop
  · have hb' : (popInput s').phase ≠ .busy := h.phase ▸ hb
    obtain rfl := Host.Outcome.next.inj (hs'.symm.trans (edge_idle (hin ▸ hr) (hin ▸ hv) hb'))
    exact hpop

/-- No output reads what is not observed. -/
theorem outputs_of_alike {s s' : State} (h : s.Alike s') (p : PortIn) : outputs p s = outputs p s' := by
  simp only [outputs, cmdReadyOut, doutOut, digestOut, digestValidOut, busyOut, statusOut, h.H, h.phase, h.fin, h.tail, h.dvalid,
    h.errOp, h.errSeq, h.errLen, h.firstErr]

/-- Settles O49: one lemma for each effect of `step_cases`; BUSY states that are alike are equal. -/
theorem alikeStatesStayAlike : Obligations.AlikeStatesStayAlike :=
  ⟨fun _ _ _ _ => alike_step, fun _ _ p h => outputs_of_alike h p⟩

/-- Alike states stay alike for any number of steps. -/
theorem alike_run (n : Nat) {s s' : State} (hinv : s.Inv) (h : s.Alike s') :
    ∃ u u', Host.Core.run Sys2Proof.core n s = .next u ∧ Host.Core.run Sys2Proof.core n s' = .next u' ∧ u.Alike u' := by
  induction n generalizing s s' with
  | zero => exact ⟨s, s', rfl, rfl, h⟩
  | succ n ih =>
    obtain ⟨t, ht⟩ := everyStepGivesANextState s
    obtain ⟨t', ht'⟩ := everyStepGivesANextState s'
    rw [core_run_succ n ht, core_run_succ n ht']
    exact ih (stepKeepsTheInvariant s t hinv ht) (alike_step hinv h ht ht')

/-- Settles O50: reset states with any `wv`, `W` and `t` are alike, for no message is open. -/
theorem resetValuesOfDatapathAreUnobservable : Obligations.ResetValuesOfDatapathAreUnobservable := by
  intro wv W t ins n
  have halike : ({ State.reset with inputs := ins } : State).Alike
      { State.reset with wv := wv, W := W, t := t, inputs := ins } := by
    constructor <;> simp
  obtain ⟨u, u', hu, hu', h⟩ := alike_run n (invariantAtReset ins) halike
  exact ⟨u, u', hu, hu', outputs_of_alike h⟩

/-- Settles O51: both effects start from one state, and DATA differs in don't-care bytes only. -/
theorem dontCareBytesAreUnobservable : Obligations.DontCareBytesAreUnobservable := by
  intro s nb d d' hinv hd
  by_cases hb : s.phase = .busy
  · exact ⟨s, s, exec_busy _ hb, exec_busy _ hb, .refl s⟩
  · exact ⟨_, _, exec_free _ hb, exec_free _ hb, alike_updateEffect hinv (.refl s) hd⟩

end Sys2Proof.Machine

/-! PROOFS. Rotation and shift (40_functions R102, R103), and the constants as roots of primes (41_constants_rom R131 to R133). -/

namespace Sys2Proof.Machine

theorem rotr_toNat (n : Nat) (x : Word) :
    (rotr n x).toNat = (x.toNat / 2 ^ n) ||| (x.toNat * 2 ^ (32 - n) % 2 ^ 32) := by
  rw [rotr, BitVec.toNat_or, BitVec.toNat_ushiftRight, BitVec.toNat_shiftLeft, Nat.shiftRight_eq_div_pow, Nat.shiftLeft_eq]

/-- The bits that leave at the right come back at the left. -/
theorem rotr_getLsbD {n : Nat} (x : Word) (hn : 0 < n) (hn' : n < 32) {i : Nat} (hi : i < 32) :
    (rotr n x).getLsbD i = x.getLsbD ((i + n) % 32) := by
  rw [rotr, BitVec.getLsbD_or, BitVec.getLsbD_ushiftRight, BitVec.getLsbD_shiftLeft]
  by_cases hwrap : i + n < 32
  · have hleft : i < 32 - n := by omega
    rw [Nat.mod_eq_of_lt hwrap]
    simp [hleft, Nat.add_comm]
  · have hleft : ¬ i < 32 - n := by omega
    have hgone : x.getLsbD (n + i) = false := BitVec.getLsbD_of_ge _ _ (by omega)
    have hpos : (i + n) % 32 = i - (32 - n) := by omega
    simp [hleft, hgone, hpos, hi]

theorem shr_toNat (n : Nat) (x : Word) : (shr n x).toNat = x.toNat / 2 ^ n := by
  rw [shr, BitVec.toNat_ushiftRight, Nat.shiftRight_eq_div_pow]

/-- Settles O54. -/
theorem rotateAndShift : Obligations.RotateAndShift :=
  ⟨fun n x hn hn' => ⟨rotr_toNat n x, fun _ hi => rotr_getLsbD x hn hn' hi, shr_toNat n x⟩, by decide, by decide⟩

/-- Trial division: below `18 ^ 2` a number without a proper divisor below 18 is prime. -/
theorem prime_iff_trialDivision {p : Nat} (hp : p < 18 ^ 2) : p.Prime ↔ 2 ≤ p ∧ ∀ d < 18, 2 ≤ d → d ∣ p → d = p := by
  constructor
  · exact fun h => ⟨h.two_le, fun d _ hd hdvd => ((Nat.dvd_prime h).mp hdvd).resolve_left (by omega)⟩
  · rintro ⟨h2, hdiv⟩
    by_contra hprime
    have hsq := Nat.minFac_sq_le_self (by omega) hprime
    have hlt : p.minFac < 18 := lt_of_pow_lt_pow_left₀ 2 (by decide) (hsq.trans_lt hp)
    have hself := hdiv p.minFac hlt (Nat.minFac_prime (by omega)).two_le p.minFac_dvd
    exact hprime (Nat.prime_def_minFac.mpr ⟨h2, hself⟩)

theorem mem_firstPrimes_iff_trialDivision :
    ∀ p < 312, (2 ≤ p ∧ ∀ d < 18, 2 ≤ d → d ∣ p → d = p) ↔ p ∈ firstPrimes.toList := by
  decide +kernel

theorem firstPrimes_lt_succ : ∀ i : Fin 63, firstPrimes[i.castSucc] < firstPrimes[i.succ] := by decide

/-- `K[i]` is `⌊2^32 * p^(1/3)⌋` without its integer part `a`, which is at most 6 (R131, R133). -/
theorem krom_is_cubeRoot : ∀ i : Fin 64, ∃ a < 7, (2 ^ 32 * a + (krom i.val).toNat) ^ 3 ≤ firstPrimes[i] * 2 ^ 96 ∧
    firstPrimes[i] * 2 ^ 96 < (2 ^ 32 * a + (krom i.val).toNat + 1) ^ 3 := by
  decide

/-- `H0[i]` is `⌊2^32 * p^(1/2)⌋` without its integer part `a`, which is at most 4 (R132, R133). -/
theorem h0rom_is_squareRoot : ∀ i : Fin 8, ∃ a < 5, (2 ^ 32 * a + h0rom[i].toNat) ^ 2 ≤ firstPrimes[i.val] * 2 ^ 64 ∧
    firstPrimes[i.val] * 2 ^ 64 < (2 ^ 32 * a + h0rom[i].toNat + 1) ^ 2 := by
  decide

/-- Settles O56: the primes by trial division, and each root by its bounds. -/
theorem constantsAreRootsOfPrimes : Obligations.ConstantsAreRootsOfPrimes := by
  refine ⟨fun i j hij => ?_, fun p hp => ?_, fun i => ?_, fun i => ?_⟩
  · exact Fin.strictMono_iff_lt_succ (f := fun i : Fin 64 => firstPrimes[i]).mpr firstPrimes_lt_succ hij
  · exact (prime_iff_trialDivision (by omega)).trans (mem_firstPrimes_iff_trialDivision p hp)
  · obtain ⟨a, -, ha⟩ := krom_is_cubeRoot i
    exact ⟨a, ha⟩
  · obtain ⟨a, -, ha⟩ := h0rom_is_squareRoot i
    exact ⟨a, ha⟩

end Sys2Proof.Machine

/-! PROOFS. The engine run to completion (43_engine R165, R169): how many edges it takes after LOAD, and what it leaves. -/

namespace Sys2Proof.Machine

/-- The engine edges from LOAD until the phase leaves BUSY (R165): 65 for each block, two blocks where a second padding block is
pending; none outside BUSY. -/
def engineEdges (s : State) : Nat := if s.phase = .busy then (if s.pend2 then 130 else 65) else 0

/-- The state in which the engine that LOAD started has left BUSY. -/
def afterEngine (s : State) : State := engineRun (engineEdges s) s

theorem engineEdges_free {s : State} (h : s.phase ≠ .busy) : engineEdges s = 0 := if_neg h

theorem afterEngine_free {s : State} (h : s.phase ≠ .busy) : afterEngine s = s := engineRun_free _ h

theorem Loaded.engineEdges {s : State} (h : Loaded s) : engineEdges s = if s.pend2 then 130 else 65 := if_pos h.busy

theorem engineEdges_le (s : State) : engineEdges s ≤ maxEngineEdges := by
  simp only [engineEdges, maxEngineEdges]
  repeat' split
  all_goals decide

/-- FOLD before the second padding block is its LOAD. -/
theorem Loaded.second {s : State} (h : Loaded s) (h2 : s.pend2 = true) : Loaded (engineRun 65 s) := by
  rw [h.engineRun_65_pend2 h2]
  exact loaded_load rfl

/-- Until its last edge the engine is BUSY, and no digest becomes valid. -/
theorem Loaded.engineRun_lt_engineEdges {s : State} (h : Loaded s) {n : Nat} (hn : n < Machine.engineEdges s) :
    (engineRun n s).phase = .busy ∧ (engineRun n s).dvalid = s.dvalid := by
  rw [h.engineEdges] at hn
  by_cases hlt : n < 65
  · obtain ⟨hphase, -, -, hd⟩ := h.engineRun_lt hlt
    exact ⟨hphase, hd⟩
  · have h2 : s.pend2 = true := by
      by_contra h2
      rw [if_neg h2] at hn
      exact hlt hn
    obtain ⟨k, rfl⟩ : ∃ k, n = 65 + k := ⟨n - 65, by omega⟩
    rw [if_pos h2] at hn
    obtain ⟨hphase, -, -, hd⟩ := (h.second h2).engineRun_lt (n := k) (by omega)
    rw [engineRun_add]
    refine ⟨hphase, hd.trans ?_⟩
    rw [h.engineRun_65_pend2 h2]
    rfl

/-- The engine on a block of an open message. -/
theorem Loaded.afterEngine_open {s : State} (h : Loaded s) (h2 : s.pend2 = false) (hf : s.fin = false) :
    ∃ wv W t, afterEngine s = { s with H := compress s.H s.W, wv := wv, W := W, t := t, phase := .ready } := by
  rw [afterEngine, h.engineEdges, if_neg (by simp [h2])]
  exact h.engineRun_65_open h2 hf

/-- The chaining state after the block of FINAL and, where one is pending, the second padding block (R169). -/
def finishedWords (s : State) : Vector Word 8 :=
  if s.pend2 then compress (compress s.H s.W) (lengthBlock (lengthBits s.mlen)) else compress s.H s.W

/-- The engine on the last one or two blocks of a message. -/
theorem Loaded.afterEngine_fin {s : State} (h : Loaded s) (hf : s.fin = true) :
    ∃ wv W t, afterEngine s =
      { s with H := finishedWords s, wv := wv, W := W, t := t, pend2 := false, phase := .done, dvalid := true } := by
  rw [afterEngine, h.engineEdges, finishedWords]
  cases h2 : s.pend2 with
  | false =>
    obtain ⟨wv, W, t, he⟩ := h.engineRun_65_fin h2 hf
    exact ⟨wv, W, t, he.trans (by simp [h2])⟩
  | true =>
    have hsecond : (engineRun 65 s).pend2 = false ∧ (engineRun 65 s).fin = true := by
      rw [h.engineRun_65_pend2 h2]
      exact ⟨rfl, hf⟩
    obtain ⟨wv, W, t, he⟩ := (h.second h2).engineRun_65_fin hsecond.1 hsecond.2
    refine ⟨wv, W, t, (engineRun_add 65 65 s).trans (he.trans ?_)⟩
    rw [h.engineRun_65_pend2 h2]
    rfl

/-- The run to completion leaves BUSY. -/
theorem Loaded.afterEngine_phase {s : State} (h : Loaded s) : (afterEngine s).phase ≠ .busy := by
  have hsingle {u : State} (hu : Loaded u) (h2 : u.pend2 = false) : (engineRun 65 u).phase ≠ .busy := by
    obtain ⟨-, -, hphase⟩ := engineCompressesOneBlock u hu.busy hu.t hu.wv
    cases hf : u.fin <;> simp [hphase, h2, hf]
  rw [afterEngine, h.engineEdges]
  cases h2 : s.pend2 with
  | false => exact hsingle h h2
  | true =>
    refine (engineRun_add 65 65 s).symm ▸ hsingle (h.second h2) ?_
    rw [h.engineRun_65_pend2 h2]
    rfl

/-- A state in which the engine, where it is BUSY, has just been started by LOAD. -/
def Fresh (s : State) : Prop := s.phase = .busy → Loaded s

theorem Fresh.afterEngine_phase {s : State} (h : Fresh s) : (afterEngine s).phase ≠ .busy := by
  by_cases hb : s.phase = .busy
  · exact (h hb).afterEngine_phase
  · rwa [afterEngine_free hb]

theorem Fresh.engineRun_lt_engineEdges {s : State} (h : Fresh s) {n : Nat} (hn : n < engineEdges s) :
    (engineRun n s).phase = .busy ∧ (engineRun n s).dvalid = s.dvalid := by
  by_cases hb : s.phase = .busy
  · exact (h hb).engineRun_lt_engineEdges hn
  · rw [engineEdges_free hb] at hn
    exact absurd hn (Nat.not_lt_zero n)

/-- The bound of the transaction-level view is never reached before the engine is done. -/
theorem Fresh.engineRun_maxEngineEdges {s : State} (h : Fresh s) : engineRun maxEngineEdges s = afterEngine s := by
  rw [← Nat.add_sub_cancel' (engineEdges_le s), engineRun_add]
  exact engineRun_free _ h.afterEngine_phase

/-- A command that starts the engine starts it with LOAD (43_engine R161). -/
theorem fresh_commandEffect (i : Instr) {s : State} (hs : s.phase ≠ .busy) : Fresh (commandEffect i s) := by
  intro hb
  obtain ⟨-, he⟩ | ⟨-, he⟩ | ⟨c, he, -⟩ | ⟨nb, data, -, hp, -, -, he⟩ | ⟨-, -, he⟩ := commandEffect_cases i s <;> rw [he] at hb ⊢
  · exact absurd hb hs
  · simp at hb
  · rw [raise_phase] at hb
    split at hb
    · cases hb
    · exact absurd hb hs
  · obtain ⟨-, he⟩ | ⟨-, -, he⟩ | ⟨-, -, he⟩ := absorb_cases nb data s <;> rw [he] at hb ⊢
    · exact absurd hb hs
    · exact ⟨rfl, rfl, rfl⟩
    · exact absurd hb hs
  · exact ⟨rfl, rfl, rfl⟩

/-- The state after one command and the engine run to completion. -/
def transaction (i : Instr) (s : State) : State := afterEngine (commandEffect i s)

theorem transaction_phase (i : Instr) {s : State} (hs : s.phase ≠ .busy) : (transaction i s).phase ≠ .busy :=
  (fresh_commandEffect i hs).afterEngine_phase

/-- `transaction` is the transaction-level view of R169. -/
theorem transact_eq (i : Instr) {s : State} (hs : s.phase ≠ .busy) : transact i s = .next (transaction i s) := by
  rw [transact, exec_free i hs]
  exact congrArg Host.Outcome.next (fresh_commandEffect i hs).engineRun_maxEngineEdges

theorem loaded_padMessage (s : State) : Loaded (padMessage s) := ⟨rfl, rfl, rfl⟩

theorem engineEdges_padMessage (s : State) : engineEdges (padMessage s) = if s.bcnt.toNat ≤ 55 then 65 else 130 := by
  rw [(loaded_padMessage s).engineEdges, padMessage_pend2]
  by_cases h : s.bcnt.toNat ≤ 55
  · rw [if_pos h, if_neg (by simp; omega)]
  · rw [if_neg h, if_pos (by simp; omega)]

/-- The chaining state after FINAL, by how many message bytes its block holds. -/
theorem finishedWords_padMessage (s : State) :
    finishedWords (padMessage s) =
      let h := compress s.H (finalBlock s.W s.bcnt.toNat (lengthBits s.mlen))
      if s.bcnt.toNat ≤ 55 then h else compress h (lengthBlock (lengthBits s.mlen)) := by
  rw [finishedWords, padMessage_pend2]
  by_cases h : s.bcnt.toNat ≤ 55
  · rw [if_neg (by simp; omega)]
    exact (if_pos h).symm
  · rw [if_pos (by simp; omega)]
    exact (if_neg h).symm

/-- An UPDATE.4 that completes a block starts the engine on it. -/
theorem loaded_absorb_full {nb : BitVec 2} {s : State} (data : Word) (hn : byteCount nb = 4) (hb : s.bcnt = 60) :
    Loaded (absorb nb data s) := by
  rw [absorb_full hn hb]
  exact ⟨rfl, rfl, rfl⟩

/-- Settles O27: the engine on the block of UPDATE, and on the one or two blocks of FINAL. -/
theorem transactionsCompress : Obligations.TransactionsCompress := by
  constructor
  · intro s data hinv hp ht hb hlen
    obtain ⟨hf, h2, hd⟩ := hinv.flags_of_ready hp
    have hmlen := absorb_mlen_toNat (nb := 0b11#2) data hlen
    have hloaded := loaded_absorb_full (nb := 0b11#2) data rfl hb
    refine ⟨_, transact_eq _ (by simp [hp]), ?_⟩
    rw [transaction, commandEffect_update_fits (nb := 0b11#2) data hp ht hlen]
    rw [absorb_full rfl hb] at hmlen hloaded ⊢
    obtain ⟨wv, W, t, he⟩ := hloaded.afterEngine_open h2 hf
    rw [he]
    refine ⟨?_, rfl, rfl, hmlen, hd, ht⟩
    simp [writeBufWord, hb]
  · intro s hinv hp
    obtain ⟨-, -, hd⟩ := hinv.flags_of_ready hp
    have hloaded := loaded_padMessage s
    obtain ⟨wv, W, t, he⟩ := hloaded.afterEngine_fin rfl
    refine ⟨_, transact_eq _ (by simp [hp]), ?_⟩
    rw [transaction, commandEffect_final_ready hp, he]
    refine ⟨rfl, rfl, rfl, rfl, finishedWords_padMessage s, padMessage s, exec_final_ready hp, fun n hn => ?_⟩
    rw [← engineEdges_padMessage] at hn
    obtain ⟨hphase, hdv⟩ := hloaded.engineRun_lt_engineEdges hn
    exact ⟨hphase, hdv.trans hd⟩

end Sys2Proof.Machine

/-! PROOFS. A message in CORE between its commands (42_commands R143 to R145): what the registers hold after some of its bytes, and that
UPDATE and FINAL, each with the engine run to completion, take this on to the digest of 40_functions R117. -/

namespace Sys2Proof.Machine

/-! The reference chain depends on the bytes of its blocks only. -/

theorem bufByte_blockWords (B : List Byte) (j : Fin 64) : bufByte (blockWords B) j = B.getD j.val 0 :=
  bufByte_wordsOfBytes _ j

theorem getD_drop (B : List Byte) (a j : Nat) : (B.drop a).getD j 0 = B.getD (a + j) 0 := by
  rw [List.getD_eq_getElem?_getD, List.getD_eq_getElem?_getD, List.getElem?_drop]

/-- A buffer with the 64 bytes that stand at `a` in `B` holds the words of that block. -/
theorem eq_blockWords_drop {W : Vector Word 16} {B : List Byte} {a : Nat}
    (h : ∀ j : Fin 64, bufByte W j = B.getD (a + j.val) 0) : W = blockWords (B.drop a) :=
  buf_ext_bytes fun j => by rw [h j, bufByte_blockWords, getD_drop]

/-- Bytes after the first `n` blocks do not matter to the chain of them. -/
theorem chain_append {p : List Byte} (bs : List Byte) {n : Nat} (hn : 64 * n ≤ p.length) : chain (p ++ bs) n = chain p n := by
  induction n with
  | zero => rfl
  | succ n ih =>
    have hblock : blockWords ((p ++ bs).drop (64 * n)) = blockWords (p.drop (64 * n)) :=
      eq_blockWords_drop fun j => by
        rw [bufByte_blockWords, getD_drop, List.getD_append _ _ _ _ (by omega)]
    rw [chain, chain, ih (by omega), Config.blockBytes, hblock]

theorem chain_pad {m : List Byte} {n : Nat} (hn : 64 * n ≤ m.length) : chain (pad m) n = chain m n := by
  rw [pad, List.append_assoc, List.append_assoc, chain_append _ hn]

/-- What CORE holds after the bytes `p` of an open message, with the engine at rest. -/
structure Absorbed (p : List Byte) (s : State) : Prop where
  phase : s.phase = .ready
  H : s.H = chain p (p.length / 64)
  mlen : s.mlen.toNat = p.length
  bcnt : s.bcnt.toNat = p.length % 64
  tail : s.tail = decide (p.length % 4 ≠ 0)
  buffer : ∀ j : Fin 64, j.val < p.length % 64 → bufByte s.W j = p.getD (64 * (p.length / 64) + j.val) 0
  fin : s.fin = false
  pend2 : s.pend2 = false
  dvalid : s.dvalid = false
  errors : SameErrors s State.reset

/-- INIT opens the empty message (42_commands R142). -/
theorem absorbed_initEffect (s : State) : Absorbed [] (initEffect s) := by
  constructor
  case H => rfl
  case errors => exact ⟨rfl, rfl, rfl, rfl⟩
  all_goals simp

theorem length_dataBytes (nb : BitVec 2) (data : Word) : (dataBytes nb data).length = byteCount nb := by
  simp [dataBytes]

theorem getD_dataBytes {nb : BitVec 2} (data : Word) {k : Nat} (hk : k < byteCount nb) :
    (dataBytes nb data).getD k 0 = byteOfWord data k := by
  simp [dataBytes, List.getD_eq_getElem?_getD, hk]

/-- The word write of UPDATE puts the new message bytes after the old ones (20_memory R56). -/
theorem Absorbed.buffer_append {p : List Byte} {s : State} (h : Absorbed p s) (hword : p.length % 4 = 0) (nb : BitVec 2)
    (data : Word) {j : Fin 64} (hj : j.val < p.length % 64 + byteCount nb) :
    bufByte (writeBufWord s.W s.bcnt data) j = (p ++ dataBytes nb data).getD (64 * (p.length / 64) + j.val) 0 := by
  have hn := byteCount_le nb
  rw [bufByte_writeBufWord, h.bcnt]
  by_cases hnew : j.val / 4 = p.length % 64 / 4
  · have hpos : 64 * (p.length / 64) + j.val - p.length = j.val % 4 := by omega
    rw [if_pos hnew, List.getD_append_right _ _ _ _ (by omega), hpos, getD_dataBytes data (by omega)]
  · rw [if_neg hnew, h.buffer j (by omega), List.getD_append _ _ _ _ (by omega)]

section
variable {p : List Byte} {s : State} (h : Absorbed p s) (hword : p.length % 4 = 0) (nb : BitVec 2) (data : Word)
  (hlen : (p ++ dataBytes nb data).length ≤ 2 ^ 61 - 1)
include h hword hlen

/-- After whole words an UPDATE is legal, and it fits where the message does. -/
theorem Absorbed.commandEffect_update : commandEffect (.update nb data) s = absorb nb data s ∧
    (absorb nb data s).mlen.toNat = (p ++ dataBytes nb data).length := by
  rw [List.length_append, length_dataBytes, ← h.mlen] at hlen
  have ht : s.tail = false := by simp [h.tail, hword]
  exact ⟨commandEffect_update_fits data h.phase ht hlen, by
    rw [absorb_mlen_toNat data hlen, List.length_append, length_dataBytes, h.mlen]⟩

/-- An UPDATE inside its block starts no engine. -/
theorem Absorbed.update_inside (hin : p.length % 64 + byteCount nb < 64) :
    Absorbed (p ++ dataBytes nb data) (commandEffect (.update nb data) s) := by
  obtain ⟨heffect, hmlen⟩ := h.commandEffect_update hword nb data hlen
  have hL : (p ++ dataBytes nb data).length = p.length + byteCount nb := by rw [List.length_append, length_dataBytes]
  have hpos := byteCount_pos nb
  have hn4 := byteCount_le nb
  have hbcnt := h.bcnt
  have hq : (p ++ dataBytes nb data).length / 64 = p.length / 64 := by omega
  have ht : s.tail = false := by simp [h.tail, hword]
  rw [← hbcnt] at hin
  rw [heffect]
  rw [absorb_inside data ht hin] at hmlen ⊢
  constructor
  case phase => exact h.phase
  case H =>
    rw [hq, chain_append _ (by omega)]
    exact h.H
  case mlen => exact hmlen
  case bcnt =>
    rw [bcnt_add_toNat hin, hL]
    omega
  case tail => exact decide_eq_decide.mpr (by omega)
  case buffer =>
    intro j hj
    rw [hq]
    exact h.buffer_append hword nb data (by omega)
  case fin => exact h.fin
  case pend2 => exact h.pend2
  case dvalid => exact h.dvalid
  case errors =>
    obtain ⟨hop, hseq, hl, hfirst⟩ := h.errors
    exact ⟨hop, hseq, hl, hfirst⟩

/-- An UPDATE.4 that completes the block starts the engine on it, which adds it to the chain. -/
theorem Absorbed.update_complete (hin : p.length % 64 + byteCount nb = 64) :
    Loaded (commandEffect (.update nb data) s) ∧ (commandEffect (.update nb data) s).pend2 = false ∧
      Absorbed (p ++ dataBytes nb data) (transaction (.update nb data) s) := by
  obtain ⟨heffect, hmlen⟩ := h.commandEffect_update hword nb data hlen
  have hL : (p ++ dataBytes nb data).length = p.length + byteCount nb := by rw [List.length_append, length_dataBytes]
  have hn : byteCount nb = 4 := by
    have hn4 := byteCount_le nb
    omega
  have hb : s.bcnt = 60 := BitVec.eq_of_toNat_eq (by rw [h.bcnt]; simp; omega)
  have hq : (p ++ dataBytes nb data).length / 64 = p.length / 64 + 1 := by omega
  have hblock : writeBufWord s.W s.bcnt data = blockWords ((p ++ dataBytes nb data).drop (64 * (p.length / 64))) :=
    eq_blockWords_drop fun j => h.buffer_append hword nb data (by omega)
  have hloaded := loaded_absorb_full data hn hb
  rw [transaction, heffect]
  rw [absorb_full hn hb] at hmlen hloaded ⊢
  refine ⟨hloaded, h.pend2, ?_⟩
  obtain ⟨wv, W, t, he⟩ := hloaded.afterEngine_open h.pend2 h.fin
  rw [he]
  constructor
  case phase => rfl
  case H =>
    rw [hq, chain, chain_append _ (by omega), ← h.H, Config.blockBytes, ← hblock]
  case mlen => exact hmlen
  case bcnt =>
    rw [hL]
    simp
    omega
  case tail =>
    rw [h.tail]
    exact decide_eq_decide.mpr (by omega)
  case buffer =>
    intro j hj
    omega
  case fin => exact h.fin
  case pend2 => exact h.pend2
  case dvalid => exact h.dvalid
  case errors =>
    obtain ⟨hop, hseq, hl, hfirst⟩ := h.errors
    exact ⟨hop, hseq, hl, hfirst⟩

/-- An UPDATE after whole words, with the engine run to completion, absorbs its message bytes: 65 engine edges where they complete a
block, else none. -/
theorem Absorbed.update :
    Absorbed (p ++ dataBytes nb data) (transaction (.update nb data) s) ∧
      engineEdges (commandEffect (.update nb data) s) + 65 * (p.length / 64) =
        65 * ((p ++ dataBytes nb data).length / 64) := by
  have hL : (p ++ dataBytes nb data).length = p.length + byteCount nb := by rw [List.length_append, length_dataBytes]
  have hn4 := byteCount_le nb
  by_cases hin : p.length % 64 + byteCount nb < 64
  · have hinside := h.update_inside hword nb data hlen hin
    have hb : (commandEffect (.update nb data) s).phase ≠ .busy := by simp [hinside.phase]
    rw [transaction, afterEngine_free hb, engineEdges_free hb]
    exact ⟨hinside, by omega⟩
  · obtain ⟨hloaded, h2, hcomplete⟩ := h.update_complete hword nb data hlen (by omega)
    rw [hloaded.engineEdges, h2]
    refine ⟨hcomplete, ?_⟩
    simp only [Bool.false_eq_true, if_false]
    omega

end

/-- What CORE holds when the digest of `m` is valid. -/
structure Delivered (m : List Byte) (s : State) : Prop where
  phase : s.phase = .done
  dvalid : s.dvalid = true
  H : s.H = hashWords m
  errors : SameErrors s State.reset

/-- The blocks of FINAL end the chain of the padded message (R117). -/
theorem Absorbed.finishedWords_padMessage {m : List Byte} {s : State} (h : Absorbed m s) :
    finishedWords (padMessage s) = hashWords m := by
  have hmlen : s.mlen = BitVec.ofNat 61 m.length := by rw [← h.mlen, BitVec.ofNat_toNat, BitVec.setWidth_eq]
  have hfinal : finalBlock s.W (m.length % 64) (lengthBits s.mlen) = blockWords ((pad m).drop (64 * (m.length / 64))) :=
    eq_blockWords_drop fun j => hmlen ▸ bufByte_finalBlock_eq_pad h.buffer j
  have hchain : chain (pad m) (m.length / 64 + 1) = compress s.H (finalBlock s.W (m.length % 64) (lengthBits s.mlen)) := by
    rw [chain, chain_pad (by omega), ← h.H, Config.blockBytes, ← hfinal]
  rw [Machine.finishedWords_padMessage, h.bcnt, hashWords, nblocks_eq_ite]
  by_cases hk : m.length % 64 ≤ 55
  · rw [if_pos hk, if_neg (by omega), hchain]
  · have hlast : lengthBlock (lengthBits s.mlen) = blockWords ((pad m).drop (64 * (m.length / 64 + 1))) :=
      eq_blockWords_drop fun j => hmlen ▸ bufByte_lengthBlock_eq_pad (by omega) j
    rw [if_neg hk, if_pos (by omega), chain, hchain, Config.blockBytes, ← hlast]

/-- FINAL, with the engine run to completion, delivers the digest, after 65 engine edges for each block of the padded message that
is left. -/
theorem Absorbed.final {m : List Byte} {s : State} (h : Absorbed m s) :
    Delivered m (transaction .final s) ∧
      engineEdges (commandEffect .final s) + 65 * (m.length / 64) = 65 * nblocks m.length := by
  rw [transaction, commandEffect_final_ready h.phase]
  constructor
  · obtain ⟨wv, W, t, he⟩ := (loaded_padMessage s).afterEngine_fin rfl
    rw [he]
    obtain ⟨hop, hseq, hl, hfirst⟩ := h.errors
    exact ⟨rfl, rfl, h.finishedWords_padMessage, hop, hseq, hl, hfirst⟩
  · rw [engineEdges_padMessage, h.bcnt, nblocks_eq_ite]
    split <;> split <;> omega

end Sys2Proof.Machine

/-! PROOFS. A host that presents commands and CORE together (42_commands R144, 60_exceptions R193): runs of commands that deliver no
digest, and how a host with waits and NOPs, or one without, makes CORE go through them edge by edge. -/

namespace Sys2Proof.Machine

/-- No digest is valid, and none is about to be shown. -/
def NoDigest (s : State) : Prop := s.dvalid = false ∧ s.phase ≠ .done

/-- From `s`, with the engine at rest, the commands `is` lead to `u` in `n` edges when each is accepted at the first edge it can be,
and no digest is valid at any edge after the first. -/
inductive SilentRun : List Instr → Nat → State → State → Prop
  | nil (s : State) : SilentRun [] 0 s s
  | cons {i : Instr} {is : List Instr} {n : Nat} {s u : State} (hs : s.phase ≠ .busy)
      (hcommand : (commandEffect i s).dvalid = false) (hengine : NoDigest (transaction i s))
      (hrest : SilentRun is n (transaction i s) u) :
      SilentRun (i :: is) (1 + engineEdges (commandEffect i s) + n) s u

theorem SilentRun.phase {is : List Instr} {n : Nat} {s u : State} (h : SilentRun is n s u) (hs : s.phase ≠ .busy) :
    u.phase ≠ .busy := by
  induction h with
  | nil => exact hs
  | cons hs _ _ _ ih => exact ih (transaction_phase _ hs)

/-- While the engine runs the digest is not valid. -/
theorem noDigest_engineRun {i : Instr} {s : State} (hs : s.phase ≠ .busy) (hd : (commandEffect i s).dvalid = false) {k : Nat}
    (hk : k < engineEdges (commandEffect i s)) : NoDigest (engineRun k (commandEffect i s)) := by
  obtain ⟨hphase, hdv⟩ := (fresh_commandEffect i hs).engineRun_lt_engineEdges hk
  exact ⟨hdv.trans hd, by simp [hphase]⟩

/-! One edge of host and CORE. -/

theorem clock_engine (q : List HostAct) {s : State} (hb : s.phase = .busy) :
    Bench.clock { queue := q, core := s } = .next { queue := Bench.rest { queue := q, core := s }, core := engineEdge s } := by
  have hrst : (Bench.port { queue := q, core := s }).rst = false := by
    unfold Bench.port
    split <;> rfl
  simp only [Bench.clock, edge_engine hrst hb]

theorem clock_wait (q : List HostAct) {s : State} (hs : s.phase ≠ .busy) :
    Bench.clock { queue := .wait :: q, core := s } = .next { queue := q, core := s } := by
  simp only [Bench.clock, Bench.port, edge_idle (p := PortIn.idle) rfl rfl hs, Bench.rest]

theorem clock_offer (w : CmdWord) (q : List HostAct) {s : State} (hs : s.phase ≠ .busy) :
    Bench.clock { queue := .offer w :: q, core := s } = .next { queue := q, core := commandEffect (decode w) s } := by
  have hready : cmdReadyOut false s = true := (cmdReadyOut_eq_true_iff false s).mpr ⟨rfl, hs⟩
  simp only [Bench.clock, Bench.port, edge_command (p := PortIn.command w) rfl rfl hs, Bench.rest, hready, if_true]
  rfl

/-- In BUSY the host keeps its commands (R193). -/
theorem commandsOf_rest_of_busy (q : List HostAct) {s : State} (hb : s.phase = .busy) :
    commandsOf (Bench.rest { queue := q, core := s }) = commandsOf q := by
  have hready : cmdReadyOut false s = false := by simp [cmdReadyOut, hb]
  match q with
  | [] => rfl
  | .wait :: q => rfl
  | .offer w :: q => simp only [Bench.rest, hready, Bool.false_eq_true, if_false]

theorem rest_backToBack_of_busy (is : List Instr) {s : State} (hb : s.phase = .busy) :
    Bench.rest { queue := backToBack is, core := s } = backToBack is := by
  have hready : cmdReadyOut false s = false := by simp [cmdReadyOut, hb]
  cases is with
  | nil => rfl
  | cons i is => simp only [backToBack, List.map_cons, Bench.rest, hready, Bool.false_eq_true, if_false]

/-! Several edges. -/

theorem run_succ (n : Nat) {b b' : Bench} (h : b.clock = .next b') : Bench.run (n + 1) b = Bench.run n b' := by
  simp only [Bench.run, h]

theorem run_one {b b' : Bench} (h : b.clock = .next b') : Bench.run 1 b = .next b' := run_succ 0 h

theorem run_add {a : Nat} {b b' : Bench} (c : Nat) (h : Bench.run a b = .next b') : Bench.run (a + c) b = Bench.run c b' := by
  induction a generalizing b with
  | zero =>
    cases h
    rw [Nat.zero_add]
  | succ a ih =>
    rw [Nat.add_right_comm]
    cases hc : b.clock with
    | next b1 =>
      rw [run_succ _ hc] at h ⊢
      exact ih h
    | fault r => cases r
    | refused r => simp [Bench.run, hc] at h

/-- While the engine runs, the host loses waits at most. -/
theorem run_engine (n : Nat) (q : List HostAct) {s : State} (h : ∀ k < n, (engineRun k s).phase = .busy) :
    ∃ q', Bench.run n { queue := q, core := s } = .next { queue := q', core := engineRun n s } ∧ commandsOf q' = commandsOf q ∧
      ∀ is, q = backToBack is → q' = q := by
  induction n with
  | zero => exact ⟨q, rfl, rfl, fun _ _ => rfl⟩
  | succ n ih =>
    obtain ⟨q', hrun, hcommands, hsame⟩ := ih fun k hk => h k (by omega)
    have hb := h n (Nat.lt_succ_self n)
    refine ⟨_, (run_add 1 hrun).trans (run_one (clock_engine q' hb)) |>.trans (by rw [engineRun_succ hb]),
      (commandsOf_rest_of_busy q' hb).trans hcommands, ?_⟩
    rintro is rfl
    rw [hsame is rfl, rest_backToBack_of_busy is hb]

/-- Some number of edges takes host and CORE from `b` to `b'`. -/
def Bench.Reaches (b b' : Bench) : Prop := ∃ n, Bench.run n b = .next b'

theorem Bench.Reaches.refl (b : Bench) : b.Reaches b := ⟨0, rfl⟩

theorem Bench.Reaches.trans {b b' b'' : Bench} (h : b.Reaches b') (h' : b'.Reaches b'') : b.Reaches b'' := by
  obtain ⟨n, hn⟩ := h
  obtain ⟨n', hn'⟩ := h'
  exact ⟨n + n', (run_add n' hn).trans hn'⟩

theorem Bench.Reaches.of_clock {b b' : Bench} (h : b.clock = .next b') : b.Reaches b' := ⟨1, run_one h⟩

/-- CORE at rest takes waits and NOPs off the queue until the next command, which it accepts. -/
theorem reaches_command {q : List HostAct} {i : Instr} {is : List Instr} {s : State} (hs : s.phase ≠ .busy)
    (hq : commandsOf q = i :: is) :
    ∃ q', Bench.Reaches { queue := q, core := s } { queue := q', core := commandEffect i s } ∧ commandsOf q' = is := by
  induction q with
  | nil => cases hq
  | cons act q ih =>
    cases act with
    | wait =>
      obtain ⟨q', hreach, hq'⟩ := ih hq
      exact ⟨q', (Bench.Reaches.of_clock (clock_wait q hs)).trans hreach, hq'⟩
    | offer w =>
      have hclock := Bench.Reaches.of_clock (clock_offer w q hs)
      rw [commandsOf] at hq
      split at hq
      · next hnop =>
        rw [hnop] at hclock
        obtain ⟨q', hreach, hq'⟩ := ih hq
        exact ⟨q', hclock.trans hreach, hq'⟩
      · obtain ⟨hi, his⟩ := List.cons.inj hq
        rw [hi] at hclock
        exact ⟨q, hclock, his⟩

/-- CORE at rest takes the last waits and NOPs off the queue. -/
theorem reaches_drained {q : List HostAct} {s : State} (hs : s.phase ≠ .busy) (hq : commandsOf q = []) :
    Bench.Reaches { queue := q, core := s } { queue := [], core := s } := by
  induction q with
  | nil => exact .refl _
  | cons act q ih =>
    cases act with
    | wait => exact (Bench.Reaches.of_clock (clock_wait q hs)).trans (ih hq)
    | offer w =>
      have hclock := Bench.Reaches.of_clock (clock_offer w q hs)
      rw [commandsOf] at hq
      split at hq
      · next hnop =>
        rw [hnop] at hclock
        exact hclock.trans (ih hq)
      · cases hq

/-- The next command of the host becomes a transaction of CORE. -/
theorem reaches_transaction {q : List HostAct} {i : Instr} {is : List Instr} {s : State} (hs : s.phase ≠ .busy)
    (hq : commandsOf q = i :: is) :
    ∃ q', Bench.Reaches { queue := q, core := s } { queue := q', core := transaction i s } ∧ commandsOf q' = is := by
  obtain ⟨q', hcommand, hq'⟩ := reaches_command hs hq
  obtain ⟨q'', hengine, hq'', -⟩ := run_engine (engineEdges (commandEffect i s)) q' fun k hk =>
    ((fresh_commandEffect i hs).engineRun_lt_engineEdges hk).1
  exact ⟨q'', hcommand.trans ⟨_, hengine⟩, hq''.trans hq'⟩

theorem SilentRun.reaches {is js : List Instr} {n : Nat} {s u : State} (h : SilentRun is n s u) {q : List HostAct}
    (hq : commandsOf q = is ++ js) :
    ∃ q', Bench.Reaches { queue := q, core := s } { queue := q', core := u } ∧ commandsOf q' = js := by
  induction h generalizing q with
  | nil s => exact ⟨q, .refl _, hq⟩
  | cons hs _ _ _ ih =>
    obtain ⟨q', hreach, hq'⟩ := reaches_transaction hs hq
    obtain ⟨q'', hreach', hq''⟩ := ih hq'
    exact ⟨q'', hreach.trans hreach', hq''⟩

/-- Back to back, a command takes one edge, and the next waits for the engine. -/
theorem run_backToBack_cons {i : Instr} (hi : decode (encode i) = i) (is : List Instr) {s : State} (hs : s.phase ≠ .busy) {k : Nat}
    (hk : k ≤ engineEdges (commandEffect i s)) :
    Bench.run (1 + k) { queue := backToBack (i :: is), core := s } =
      .next { queue := backToBack is, core := engineRun k (commandEffect i s) } := by
  have hclock := clock_offer (encode i) (backToBack is) hs
  rw [hi] at hclock
  obtain ⟨q', hrun, -, hsame⟩ := run_engine k (backToBack is) fun k' hk' =>
    ((fresh_commandEffect i hs).engineRun_lt_engineEdges (hk'.trans_le hk)).1
  rw [hsame is rfl] at hrun
  exact (run_add k (run_one hclock)).trans hrun

/-- From the first edge on and up to edge `n`, no digest is valid. -/
def Bench.SilentFor (n : Nat) (b : Bench) : Prop := ∀ k, 1 ≤ k → k ≤ n → ∃ c, Bench.run k b = .next c ∧ NoDigest c.core

theorem Bench.SilentFor.add {n m : Nat} {b b' : Bench} (h : b.SilentFor n) (hrun : Bench.run n b = .next b')
    (h' : b'.SilentFor m) : b.SilentFor (n + m) := by
  intro k hk hkn
  by_cases hle : k ≤ n
  · exact h k hk hle
  · obtain ⟨j, rfl⟩ : ∃ j, k = n + j := ⟨k - n, by omega⟩
    rw [run_add j hrun]
    exact h' j (by omega) (by omega)

/-- Before the engine's last edge the digest of a command is not valid. -/
theorem silentFor_command {i : Instr} (hi : decode (encode i) = i) (is : List Instr) {s : State} (hs : s.phase ≠ .busy)
    (hd : (commandEffect i s).dvalid = false) :
    Bench.SilentFor (engineEdges (commandEffect i s)) { queue := backToBack (i :: is), core := s } := by
  intro k hk hkn
  obtain ⟨j, rfl⟩ : ∃ j, k = 1 + j := ⟨k - 1, by omega⟩
  exact ⟨_, run_backToBack_cons hi is hs (by omega), noDigest_engineRun hs hd (by omega)⟩

/-- A silent run is what a back-to-back host makes of it, in as many edges. -/
theorem SilentRun.run_backToBack {is : List Instr} {n : Nat} {s u : State} (h : SilentRun is n s u)
    (his : ∀ i ∈ is, decode (encode i) = i) (js : List Instr) :
    Bench.run n { queue := backToBack (is ++ js), core := s } = .next { queue := backToBack js, core := u } ∧
      Bench.SilentFor n { queue := backToBack (is ++ js), core := s } := by
  induction h with
  | nil s => exact ⟨rfl, fun k hk hkn => by omega⟩
  | @cons i is n s u hs hcommand hengine hrest ih =>
    obtain ⟨hrun, hsilent⟩ := ih fun i hi => his i (List.mem_cons_of_mem _ hi)
    have hi := his i List.mem_cons_self
    have hfirst := run_backToBack_cons hi (is ++ js) hs le_rfl
    have hsilentFirst : Bench.SilentFor (1 + engineEdges (commandEffect i s))
        { queue := backToBack (i :: (is ++ js)), core := s } := by
      intro k hk hkn
      obtain hlt | rfl := Nat.lt_or_eq_of_le hkn
      · exact silentFor_command hi _ hs hcommand k hk (by omega)
      · exact ⟨_, hfirst, hengine⟩
    exact ⟨(run_add n hfirst).trans hrun, hsilentFirst.add hfirst hsilent⟩

end Sys2Proof.Machine

/-! PROOFS. The correctness law and the edge count of 43_engine R168: the commands of a message are a silent run of UPDATEs between INIT
and FINAL. -/

namespace Sys2Proof.Machine

/-- The UPDATEs of a message: full words, then at most one partial word (42_commands R144). -/
structure UpdateSequence (is : List Instr) : Prop where
  update : ∀ i ∈ is, ∃ nb data, i = .update nb data
  full : ∀ i ∈ is.dropLast, ∃ data, i = .update 0b11#2 data

/-- Don't-care bytes carry no message. -/
theorem messageBytes_canonical (i : Instr) : messageBytes i.canonical = messageBytes i := by
  cases i with
  | update nb data =>
    refine List.map_congr_left fun k hk => ?_
    have hk' : k < byteCount nb := List.mem_range.mp hk
    rw [byteOfWord_keepBytes nb data (hk'.trans_le (byteCount_le nb)), if_pos hk']
  | _ => rfl

theorem update_of_canonical {i : Instr} {nb : BitVec 2} {data : Word} (h : i.canonical = .update nb data) :
    ∃ data', i = .update nb data' := by
  cases i with
  | update nb' data' =>
    obtain ⟨rfl, -⟩ := Instr.update.inj h
    exact ⟨data', rfl⟩
  | _ => cases h

theorem eq_init_of_canonical {i : Instr} (h : i.canonical = .init) : i = .init := by
  cases i with
  | init => rfl
  | _ => cases h

theorem eq_final_of_canonical {i : Instr} (h : i.canonical = .final) : i = .final := by
  cases i with
  | final => rfl
  | _ => cases h

/-- Any don't-care bits leave the UPDATEs of a message what they are. -/
theorem updateSequence_of_canonical {is : List Instr} {m : List Byte} (h : is.map Instr.canonical = absorbCommands m) :
    UpdateSequence is ∧ is.flatMap messageBytes = m ∧ is.length = (m.length + 3) / 4 := by
  refine ⟨⟨fun i hi => ?_, fun i hi => ?_⟩, ?_, ?_⟩
  · obtain ⟨nb, data, hcanonical, -⟩ := canonical_of_mem_absorbCommands (h ▸ List.mem_map_of_mem hi)
    obtain ⟨data', rfl⟩ := update_of_canonical hcanonical
    exact ⟨nb, data', rfl⟩
  · have hmem : i.canonical ∈ (absorbCommands m).dropLast := by
      rw [← h, ← List.map_dropLast]
      exact List.mem_map_of_mem hi
    obtain ⟨data, hcanonical⟩ := full_of_mem_dropLast_absorbCommands hmem
    exact update_of_canonical hcanonical
  · rw [← flatMap_messageBytes_absorbCommands m, ← h, List.flatMap_map]
    exact List.flatMap_congr fun i _ => (messageBytes_canonical i).symm
  · rw [← length_absorbCommands, ← h, List.length_map]

theorem Absorbed.noDigest {p : List Byte} {s : State} (h : Absorbed p s) : NoDigest s := ⟨h.dvalid, by simp [h.phase]⟩

theorem Absorbed.not_busy {p : List Byte} {s : State} (h : Absorbed p s) : s.phase ≠ .busy := by simp [h.phase]

/-- UPDATE does not write `dvalid`. -/
theorem Absorbed.dvalid_update {p : List Byte} {s : State} (h : Absorbed p s) (nb : BitVec 2) (data : Word) :
    (commandEffect (.update nb data) s).dvalid = false := by
  obtain ⟨-, he⟩ | ⟨-, -, -, he⟩ | ⟨-, -, -, he⟩ := updateEffect_cases nb data s <;> rw [commandEffect, he]
  · exact h.dvalid
  · exact h.dvalid
  · obtain ⟨-, he⟩ | ⟨-, -, he⟩ | ⟨-, -, he⟩ := absorb_cases nb data s <;> rw [he] <;> exact h.dvalid

/-- The UPDATEs of a message are a silent run: one edge each, and 65 for each block they complete. -/
theorem Absorbed.updates {is : List Instr} (his : UpdateSequence is) {p : List Byte} {s : State} (h : Absorbed p s)
    (hword : is ≠ [] → p.length % 4 = 0) (hlen : (p ++ is.flatMap messageBytes).length ≤ 2 ^ 61 - 1) :
    ∃ n u, SilentRun is n s u ∧ Absorbed (p ++ is.flatMap messageBytes) u ∧
      n + 65 * (p.length / 64) = is.length + 65 * ((p ++ is.flatMap messageBytes).length / 64) := by
  induction is generalizing p s with
  | nil =>
    rw [List.flatMap_nil, List.append_nil]
    exact ⟨0, s, .nil s, h, rfl⟩
  | cons i is ih =>
    obtain ⟨nb, data, rfl⟩ := his.update i List.mem_cons_self
    rw [List.flatMap_cons, messageBytes, ← List.append_assoc] at hlen ⊢
    have hprefix : (p ++ dataBytes nb data).length ≤ 2 ^ 61 - 1 := by
      rw [List.length_append] at hlen
      omega
    obtain ⟨hnext, hedges⟩ := h.update (hword (List.cons_ne_nil _ _)) nb data hprefix
    have hrest : UpdateSequence is :=
      ⟨fun j hj => his.update j (List.mem_cons_of_mem _ hj), fun j hj => his.full j (by
        rw [List.dropLast_cons_of_ne_nil (by rintro rfl; cases hj)]
        exact List.mem_cons_of_mem _ hj)⟩
    have hword' : is ≠ [] → (p ++ dataBytes nb data).length % 4 = 0 := by
      intro hne
      obtain ⟨data', hfull⟩ := his.full (.update nb data) (by
        rw [List.dropLast_cons_of_ne_nil hne]
        exact List.mem_cons_self)
      obtain ⟨rfl, -⟩ := Instr.update.inj hfull
      have h0 := hword (List.cons_ne_nil _ _)
      have h4 : byteCount 0b11#2 = 4 := rfl
      rw [List.length_append, length_dataBytes, h4]
      omega
    obtain ⟨n, u, hrun, hu, hn⟩ := ih hrest hnext hword' hlen
    refine ⟨_, u, .cons h.not_busy (h.dvalid_update nb data) hnext.noDigest hrun, hu, ?_⟩
    rw [List.length_cons]
    omega

/-- The number of edges of a message presented back to back (R168). -/
def messageEdges (L : Nat) : Nat := 2 + (L + 3) / 4 + 65 * nblocks L

/-- The commands of a message with any don't-care bits, as a silent run up to FINAL, and what FINAL delivers. -/
theorem silentRun_of_hashCommands {m : List Byte} {is : List Instr} {s : State} (hlen : m.length ≤ 2 ^ 61 - 1)
    (hs : s.phase ≠ .busy) (his : is.map Instr.canonical = hashCommands m) :
    ∃ js n v, is = js ++ [.final] ∧ SilentRun js n s v ∧ v.phase ≠ .busy ∧ (commandEffect .final v).dvalid = false ∧
      Delivered m (transaction .final v) ∧ n + (1 + engineEdges (commandEffect .final v)) = messageEdges m.length := by
  obtain ⟨i0, is1, rfl, hinit, hrest⟩ := List.map_eq_cons_iff.mp his
  obtain ⟨us, fs, rfl, hupdates, hfinal⟩ := List.map_eq_append_iff.mp hrest
  obtain ⟨f, hf, hfcanonical⟩ := List.map_eq_singleton_iff.mp hfinal
  obtain rfl := eq_init_of_canonical hinit
  obtain rfl := eq_final_of_canonical hfcanonical
  subst hf
  obtain ⟨hseq, hbytes, hcount⟩ := updateSequence_of_canonical hupdates
  have hopen := absorbed_initEffect s
  have hafter : transaction .init s = initEffect s := afterEngine_free hopen.not_busy
  obtain ⟨n, v, hrun, hv, hn⟩ := hopen.updates hseq (fun _ => rfl) (by rwa [List.nil_append, hbytes])
  rw [List.nil_append, hbytes] at hv hn
  rw [← hafter] at hrun
  obtain ⟨hdelivered, hedges⟩ := hv.final
  have hinitEdges : engineEdges (commandEffect .init s) = 0 := engineEdges_free hopen.not_busy
  refine ⟨.init :: us, _, v, rfl, .cons hs hopen.dvalid (hafter ▸ hopen.noDigest) hrun, hv.not_busy, ?_, hdelivered, ?_⟩
  · rw [commandEffect_final_ready hv.phase]
    exact hv.dvalid
  · rw [List.length_nil] at hn
    simp only [messageEdges]
    omega

/-- Word `i / 4` and byte `i % 4` of a list of words are byte `i` of their bytes. -/
theorem getD_flatMap_unbe32 (ws : List Word) {i : Nat} (hi : i / 4 < ws.length) :
    (ws.flatMap unbe32).getD i 0 = byteOfWord ws[i / 4] (i % 4) := by
  induction ws generalizing i with
  | nil => cases hi
  | cons w ws ih =>
    have hfour : (unbe32 w).length = 4 := rfl
    rw [List.flatMap_cons]
    by_cases hlt : i < 4
    · rw [List.getD_append _ _ _ _ (hfour ▸ hlt)]
      interval_cases i <;> rfl
    · obtain ⟨j, rfl⟩ : ∃ j, i = j + 4 := ⟨i - 4, by omega⟩
      have hdiv : (j + 4) / 4 = j / 4 + 1 := by omega
      rw [List.length_cons, hdiv] at hi
      rw [List.getD_append_right _ _ _ _ (by omega), hfour, Nat.add_sub_cancel, ih (by omega), Nat.add_mod_right]
      simp only [hdiv, List.getElem_cons_succ]

theorem Delivered.outputs {m : List Byte} {s : State} (h : Delivered m s) :
    digestOut s = busOfWords (hashWords m) ∧ ∀ i : Fin 32, digestByte s i = (hashBytes m).getD i.val 0 := by
  constructor
  · rw [digestOut, if_pos h.dvalid, h.H]
    rfl
  · intro i
    rw [digestByte, if_pos h.dvalid, hashBytes, getD_flatMap_unbe32 _ (by simp; omega)]
    simp [h.H]

/-- Settles O29: the host makes CORE go through the silent run of the message, then through FINAL, and drains its queue. -/
theorem messageDigestIsTheHash : Obligations.MessageDigestIsTheHash := by
  intro m s q hlen hs hq
  obtain ⟨js, n, v, hjs, hrun, hv, -, hdelivered, -⟩ := silentRun_of_hashCommands hlen hs hq
  obtain ⟨q', hreach, hq'⟩ := hrun.reaches hjs
  obtain ⟨q'', hfinal, hq''⟩ := reaches_transaction hv hq'
  obtain ⟨k, hk⟩ := (hreach.trans hfinal).trans (reaches_drained (by simp [hdelivered.phase]) hq'')
  obtain ⟨hop, hseq, hl, hfirst⟩ := hdelivered.errors
  obtain ⟨hbus, hbyte⟩ := hdelivered.outputs
  exact ⟨k, _, hk, hdelivered.phase, hdelivered.dvalid, hop, hseq, hl, hfirst, hbus, hbyte⟩

/-- The commands of a message are canonical. -/
theorem canonical_of_mem_hashCommands {m : List Byte} {i : Instr} (h : i ∈ hashCommands m) : i.canonical = i := by
  obtain rfl | h := List.mem_cons.mp h
  · rfl
  · obtain h | h := List.mem_append.mp h
    · obtain ⟨-, -, -, hcanonical⟩ := canonical_of_mem_absorbCommands h
      exact hcanonical
    · obtain rfl := List.mem_singleton.mp h
      rfl

/-- Settles O30: the silent run of the message takes its edges one after the other, and the last command is FINAL. -/
theorem backToBackEdgeCount : Obligations.BackToBackEdgeCount := by
  refine ⟨fun m s hlen hs => ?_, by decide⟩
  have hcanonical : (hashCommands m).map Instr.canonical = hashCommands m :=
    (List.map_congr_left fun i hi => canonical_of_mem_hashCommands hi).trans (List.map_id _)
  obtain ⟨js, n, v, hjs, hsilent, hv, hd, hdelivered, hn⟩ := silentRun_of_hashCommands hlen hs hcanonical
  have hword : ∀ i ∈ js, decode (encode i) = i := fun i hi => by
    have hmem : i ∈ hashCommands m := hjs ▸ List.mem_append_left _ hi
    rw [decode_encode (wellFormed_of_mem_hashCommands hmem), canonical_of_mem_hashCommands hmem]
  obtain ⟨hrun, hquiet⟩ := hsilent.run_backToBack hword [.final]
  have hfinal := run_backToBack_cons (i := .final) (by decide) [] hv le_rfl
  have hedges : 2 + (m.length + 3) / 4 + 65 * nblocks m.length = n + (1 + engineEdges (commandEffect .final v)) := hn.symm
  simp only [hjs, hedges]
  refine ⟨⟨_, (run_add _ hrun).trans hfinal, hdelivered.phase, hdelivered.dvalid, hdelivered.outputs.1⟩, fun k hk hkn => ?_⟩
  exact hquiet.add hrun (silentFor_command (by decide) [] hv hd) k hk (by omega)

end Sys2Proof.Machine
